-- ==== Sys2Proof/Word.lean ====
section
/-! DEFINITION. The machine's two word types (rules R5, R7): a 32-bit word (general registers, addresses,
command words) and an 8-bit byte (a memory cell, a sample). -/

namespace Sys2Proof

/-- A 32-bit word; bit 0 is the least significant (rule R7). -/
abbrev Word := BitVec 32

/-- One byte of shared memory, one sample of a plane (rules R5, R80). -/
abbrev Byte := BitVec 8

end Sys2Proof
end

