-- ==== Sys2Proof/Machine/Arith.lean ====
section
/-! DEFINITION. The arithmetic primitives of `00_scope.md` rules R8 and R9. Every quantity is an exact integer and is
narrowed only where a rule writes it to a register (rule R7). -/

namespace Sys2Proof.Machine

/-- `rdiv(a, b)` of rule R9: division rounded to nearest, halves away from zero. Every rule that uses it has `b > 0`
(rule R156c); elsewhere it is 0 (log 11). -/
def rdiv (a : Int) (b : Nat) : Int := a.sign * ((2 * a.natAbs + b) / (2 * b) : Nat)

/-- `tz2(v)` of rule R8: halved toward zero. -/
def tz2 (v : Int) : Int := if 0 ≤ v then v / 2 else -(-v / 2)

/-- `clamp(v, lo, hi)` of rule R8. -/
def clamp (v lo hi : Int) : Int := if v < lo then lo else if hi < v then hi else v

/-- `pack(a, b)` of rule R8: `a` in bits 15:0, `b` in bits 31:16, each modulo 2^16. -/
def pack (a b : Int) : Word := BitVec.ofInt 16 b ++ BitVec.ofInt 16 a

/-- `lo16s(w)` of rule R8. -/
def lo16s (w : Word) : Int := (w.extractLsb' 0 16).toInt

/-- `hi16s(w)` of rule R8. -/
def hi16s (w : Word) : Int := (w.extractLsb' 16 16).toInt

/-- `sext_16` of an immediate, as a word (rule R113). -/
def sext16 (imm : BitVec 16) : Word := imm.signExtend 32

/-- `bin_n(v)` of rule R8: the `n` low bits of `v`, most significant first; `true` is the character `1`. -/
def bin (n v : Nat) : List Bool := (List.range n).map fun i => v.testBit (n - 1 - i)

/-- `bin_n(v)` of an integer: the bits of `v mod 2^n` (rule R8). -/
def binInt (n : Nat) (v : Int) : List Bool := bin n (v % (2 ^ n : Nat)).toNat

/-- `ceil(v / 8)`: the number of bytes that `v` bits touch (rule R251). -/
def bytesFor (bits : Nat) : Nat := (bits + 7) / 8

end Sys2Proof.Machine
end

