-- ==== Sys2Proof/Syntax.lean ====
section
/-! DEFINITION. The 26 commands of the MEE (`30_encoding.md` rule R114), one constructor per row of the opcode
table, with operand fields as rules R111, R113 and R115 give them. -/

namespace Sys2Proof

/-- A general register number, naming `R0` .. `R15` (rule R111). -/
abbrev Reg := Fin 16

/-- The eleven branch conditions of rule R115, in the order of their numbers 0 .. 10. -/
inductive Cond where
  | al | eq | ne | lt | ge | ltu | geu | esc | nesc | exh | nexh
deriving DecidableEq, Repr

/-- The metric of a measuring command: `met = 0` SAD, `met = 1` SSD (rules R115, R170). -/
inductive MetricKind where
  | sad | ssd
deriving DecidableEq, Repr

/-- A prediction direction: `dir = 0` forward, `dir = 1` backward (rules R115, R177). -/
inductive Dir where
  | forward | backward
deriving DecidableEq, Repr

/-- The direction field of `MSRCH`: 0 forward, 1 backward, 2 bidirectional (rule R115). -/
inductive SearchDir where
  | forward | backward | bidirectional
deriving DecidableEq, Repr

/-- A coding mode, numbered 0 .. 3 (glossary of `00_scope.md`; rule R115). -/
inductive CodingMode where
  | intra | forward | backward | interpolated
deriving DecidableEq, Repr

/-- A frame type, numbered 0 .. 2 (glossary of `00_scope.md`; rules R37, R115). Register `FTYPE` never
holds 3 (log 13). -/
inductive FrameType where
  | intra | predicted | bidirectional
deriving DecidableEq, Repr

/-- The commands, in the order of the opcode table. -/
inductive Instr where
  | halt
  | br (cond : Cond) (off22 : BitVec 22)
  | nop
  | addi (rd ra : Reg) (imm16 : BitVec 16)
  | ori (rd ra : Reg) (imm16 : BitVec 16)
  | lui (rd : Reg) (imm16 : BitVec 16)
  | add (rd ra rb : Reg)
  | sub (rd ra rb : Reg)
  | cmp (ra rb : Reg)
  | ldw (rd ra : Reg) (imm16 : BitVec 16)
  | stw (rs ra : Reg) (imm16 : BitVec 16)
  | rdcsr (rd : Reg) (csr : BitVec 16)
  | wrcsr (csr : BitVec 16) (ra : Reg)
  | ldcur (ra : Reg)
  | metric (met : MetricKind) (dir : Dir) (rd ra rb : Reg)
  | act (met : MetricKind) (rd : Reg)
  | msrch (met : MetricKind) (dir : SearchDir) (rd ra : Reg)
  | mdec (rd : Reg)
  | tqmb (mode : CodingMode)
  | ecmb
  | putb (ra : Reg) (n : BitVec 6)
  | align
  | flush
  | frmbeg (ftype : FrameType)
  | frmend
  | frmnext (keep : Bool)
deriving DecidableEq, Repr

end Sys2Proof
end

