-- ==== Sys2Proof/WellFormed.lean ====
section
/-! DEFINITION. Which terms of `Instr` an encoding can stand for. Every other value check of rule R117 (branch
conditions 11 .. 15, `MSRCH` direction 3, `FRMBEG` type 3) is already made by the field's type; the bit count of
`PUTB` is the one field with illegal values left. -/

namespace Sys2Proof

/-- `PUTB` emits 1 .. 32 bits; counts 0 and 33 .. 63 are illegal (rules R115, R117). -/
def Instr.wellFormed : Instr → Bool
  | .putb _ n => decide (1 ≤ n.toNat) && decide (n.toNat ≤ 32)
  | .halt | .br _ _ | .nop | .addi _ _ _ | .ori _ _ _ | .lui _ _ | .add _ _ _ | .sub _ _ _ | .cmp _ _
  | .ldw _ _ _ | .stw _ _ _ | .rdcsr _ _ | .wrcsr _ _ | .ldcur _ | .metric _ _ _ _ _ | .act _ _
  | .msrch _ _ _ _ | .mdec _ | .tqmb _ | .ecmb | .align | .flush | .frmbeg _ | .frmend | .frmnext _ => true

end Sys2Proof
end

