-- ==== Sys2Proof/Decode.lean ====
section
/-! DEFINITION. Decoding and encoding of command words (`30_encoding.md`). The decoder is a total function of the
word alone (rule R121) and strict (rules R116, R117); it refuses by name. The encoder is written from the same
format tables (rules R111, R113 to R115). -/

namespace Sys2Proof

/-- Why a word is no command. Every one of these raises IllegalCommand (rules R116, R117); `tooShort` says that
fewer than four bytes were given and never arises at a fetch, which reads four (rule R110). -/
inductive DecodeError where
  /-- Bits 31:26 select no command (rule R114). -/
  | unassignedOpcode
  /-- A must-be-zero position holds a one (rule R116). -/
  | mustBeZero
  /-- `BR` with `cond` in 11 .. 15 (rule R117). -/
  | badCondition
  /-- `MSRCH` with `dir = 3` (rule R117). -/
  | badDirection
  /-- `FRMBEG` with `ftype = 3` (rule R117). -/
  | badFrameType
  /-- `PUTB` with `n = 0` or `n > 32` (rule R117). -/
  | badCount
  /-- Fewer than four bytes. -/
  | tooShort
deriving DecidableEq, Repr

/-! ### Field values (rule R115) -/

/-- The number of a branch condition. -/
def condCode : Cond → BitVec 4
  | .al => 0 | .eq => 1 | .ne => 2 | .lt => 3 | .ge => 4 | .ltu => 5 | .geu => 6
  | .esc => 7 | .nesc => 8 | .exh => 9 | .nexh => 10

/-- The branch condition of a number; 11 .. 15 are illegal. -/
def condOfCode (c : BitVec 4) : Option Cond :=
  match c.toNat with
  | 0 => some .al | 1 => some .eq | 2 => some .ne | 3 => some .lt | 4 => some .ge | 5 => some .ltu
  | 6 => some .geu | 7 => some .esc | 8 => some .nesc | 9 => some .exh | 10 => some .nexh
  | _ => none

/-- Field `met`: 0 SAD, 1 SSD. -/
def metricBit : MetricKind → Bool
  | .sad => false | .ssd => true

/-- The metric of a bit. -/
def metricOfBit (b : Bool) : MetricKind := if b then .ssd else .sad

/-- Field `dir` of `METRIC`: 0 forward, 1 backward. -/
def dirBit : Dir → Bool
  | .forward => false | .backward => true

/-- The direction of a bit. -/
def dirOfBit (b : Bool) : Dir := if b then .backward else .forward

/-- Field `dir` of `MSRCH`. -/
def searchDirCode : SearchDir → BitVec 2
  | .forward => 0 | .backward => 1 | .bidirectional => 2

/-- The search direction of a number; 3 is illegal. -/
def searchDirOfCode (c : BitVec 2) : Option SearchDir :=
  match c.toNat with
  | 0 => some .forward | 1 => some .backward | 2 => some .bidirectional | _ => none

/-- The number of a coding mode. -/
def modeCode : CodingMode → BitVec 2
  | .intra => 0 | .forward => 1 | .backward => 2 | .interpolated => 3

/-- The coding mode of a number. -/
def modeOfCode (c : BitVec 2) : CodingMode :=
  match c.toNat with
  | 0 => .intra | 1 => .forward | 2 => .backward | _ => .interpolated

/-- The number of a frame type. -/
def frameTypeCode : FrameType → BitVec 2
  | .intra => 0 | .predicted => 1 | .bidirectional => 2

/-- The frame type of a number; 3 is illegal. -/
def frameTypeOfCode (c : BitVec 2) : Option FrameType :=
  match c.toNat with
  | 0 => some .intra | 1 => some .predicted | 2 => some .bidirectional | _ => none

/-! ### Fields of a word (rule R111) -/

/-- Bits 31:26, the opcode. -/
def opField (w : Word) : BitVec 6 := w.extractLsb' 26 6

/-- Bits 25:22, `rd` (the source register for `STW`; `cond` in format B). -/
def rdField (w : Word) : BitVec 4 := w.extractLsb' 22 4

/-- Bits 21:18, `ra`. -/
def raField (w : Word) : BitVec 4 := w.extractLsb' 18 4

/-- Bits 17:14, `rb` of format R. -/
def rbField (w : Word) : BitVec 4 := w.extractLsb' 14 4

/-- Bits 13:0, the mode field `m` of format R. -/
def mField (w : Word) : BitVec 14 := w.extractLsb' 0 14

/-- Bits 17:16, which must be 0 in format I. -/
def zField (w : Word) : BitVec 2 := w.extractLsb' 16 2

/-- Bits 15:0, `imm16` of format I. -/
def immField (w : Word) : BitVec 16 := w.extractLsb' 0 16

/-- Bits 21:0, `off22` of format B. -/
def offField (w : Word) : BitVec 22 := w.extractLsb' 0 22

/-- Bits 25:0, which must be 0 in format N. -/
def restField (w : Word) : BitVec 26 := w.extractLsb' 0 26

/-- The register a four-bit field names. -/
def regOf (b : BitVec 4) : Reg := b.toFin

/-- The command, if every must-be-zero position of its row holds 0 (rule R116). -/
def ifZero (zero : Bool) (i : Instr) : Except DecodeError Instr :=
  if zero then .ok i else .error .mustBeZero

/-- The command of a word, or why it is none (rules R114 to R117, R121). The must-be-zero test comes first and
the value checks of rule R117 after it. -/
def decodeWord (w : Word) : Except DecodeError Instr :=
  let rd := regOf (rdField w)
  let ra := regOf (raField w)
  let rb := regOf (rbField w)
  let imm := immField w
  let m := mField w
  let n0 := restField w == 0
  let rd0 := rdField w == 0
  let ra0 := raField w == 0
  let rb0 := rbField w == 0
  let z0 := zField w == 0
  match (opField w).toNat with
  | 0x01 => ifZero n0 .halt
  | 0x02 =>
    match condOfCode (rdField w) with
    | some c => .ok (.br c (offField w))
    | none => .error .badCondition
  | 0x03 => ifZero n0 .nop
  | 0x04 => ifZero z0 (.addi rd ra imm)
  | 0x05 => ifZero z0 (.ori rd ra imm)
  | 0x06 => ifZero (z0 && ra0) (.lui rd imm)
  | 0x08 => ifZero (m == 0) (.add rd ra rb)
  | 0x09 => ifZero (m == 0) (.sub rd ra rb)
  | 0x0A => ifZero (rd0 && m == 0) (.cmp ra rb)
  | 0x0C => ifZero z0 (.ldw rd ra imm)
  | 0x0D => ifZero z0 (.stw rd ra imm)
  | 0x0E => ifZero (z0 && ra0) (.rdcsr rd imm)
  | 0x0F => ifZero (z0 && rd0) (.wrcsr imm ra)
  | 0x10 => ifZero (rd0 && rb0 && m == 0) (.ldcur ra)
  | 0x11 => ifZero (m &&& 0x3FFA == 0) (.metric (metricOfBit (m.getLsbD 2)) (dirOfBit (m.getLsbD 0)) rd ra rb)
  | 0x12 => ifZero (ra0 && rb0 && m &&& 0x3FFB == 0) (.act (metricOfBit (m.getLsbD 2)) rd)
  | 0x14 =>
    match rb0 && m &&& 0x3FF8 == 0, searchDirOfCode (m.extractLsb' 0 2) with
    | true, some d => .ok (.msrch (metricOfBit (m.getLsbD 2)) d rd ra)
    | true, none => .error .badDirection
    | false, _ => .error .mustBeZero
  | 0x15 => ifZero (ra0 && rb0 && m == 0) (.mdec rd)
  | 0x18 => ifZero (rd0 && ra0 && rb0 && m &&& 0x3FFC == 0) (.tqmb (modeOfCode (m.extractLsb' 0 2)))
  | 0x1C => ifZero n0 .ecmb
  | 0x1D =>
    let n := m.extractLsb' 0 6
    match rd0 && rb0 && m &&& 0x3FC0 == 0, decide (1 ≤ n.toNat) && decide (n.toNat ≤ 32) with
    | true, true => .ok (.putb ra n)
    | true, false => .error .badCount
    | false, _ => .error .mustBeZero
  | 0x1E => ifZero n0 .align
  | 0x1F => ifZero n0 .flush
  | 0x20 =>
    match rd0 && ra0 && rb0 && m &&& 0x3FFC == 0, frameTypeOfCode (m.extractLsb' 0 2) with
    | true, some t => .ok (.frmbeg t)
    | true, none => .error .badFrameType
    | false, _ => .error .mustBeZero
  | 0x21 => ifZero n0 .frmend
  | 0x22 => ifZero (rd0 && ra0 && rb0 && m &&& 0x3FFE == 0) (.frmnext (m.getLsbD 0))
  | _ => .error .unassignedOpcode

/-! ### Words in bytes (rules R81, R110) -/

/-- The 32-bit little-endian word of four bytes, the byte at the lowest address first (rule R81a). -/
def wordOfBytes (b0 b1 b2 b3 : Byte) : Word := b3 ++ b2 ++ b1 ++ b0

/-- The four bytes of a word, the one for the lowest address first (rule R81a). -/
def bytesOfWord (w : Word) : List Byte :=
  [w.extractLsb' 0 8, w.extractLsb' 8 8, w.extractLsb' 16 8, w.extractLsb' 24 8]

/-- Decoding of a byte string: the command of its first four bytes, and the bytes after it (rule R110). -/
def decode : List Byte → Except DecodeError (Instr × List Byte)
  | b0 :: b1 :: b2 :: b3 :: rest =>
    match decodeWord (wordOfBytes b0 b1 b2 b3) with
    | .ok i => .ok (i, rest)
    | .error e => .error e
  | _ => .error .tooShort

/-- The bytes of the instruction whose bits, numbered as the opcode table numbers them, are the low `nbits` bits
of `w` and zero above. -/
def tableBytes (nbits w : Nat) : List Byte := bytesOfWord (BitVec.ofNat 32 (w % 2 ^ nbits))

/-- What the decoder reads from an instruction given as the opcode table numbers its bits. -/
def decodeTableWord (nbits w : Nat) : Option Instr :=
  match decode (tableBytes nbits w) with
  | .ok (i, _) => some i
  | .error _ => none

/-! ### The encoder -/

/-- The four-bit field of a register. -/
def regBits (r : Reg) : BitVec 4 := BitVec.ofFin r

/-- Format R of rule R111. -/
def formatR (op : BitVec 6) (rd ra rb : BitVec 4) (m : BitVec 14) : Word := op ++ rd ++ ra ++ rb ++ m

/-- Format I of rule R111. -/
def formatI (op : BitVec 6) (rd ra : BitVec 4) (imm : BitVec 16) : Word := op ++ rd ++ ra ++ 0#2 ++ imm

/-- Format B of rule R111. -/
def formatB (op : BitVec 6) (cond : BitVec 4) (off : BitVec 22) : Word := op ++ cond ++ off

/-- Format N of rule R111. -/
def formatN (op : BitVec 6) : Word := op ++ 0#26

/-- The mode field with `met` in bit 2 and a two-bit number in bits 1:0 (rule R115). -/
def modeField (met : Bool) (low : BitVec 2) : BitVec 14 := 0#11 ++ BitVec.ofBool met ++ low

/-- The word of a command (rules R111, R113 to R115). -/
def encode : Instr → Word
  | .halt => formatN 0x01
  | .br c off => formatB 0x02 (condCode c) off
  | .nop => formatN 0x03
  | .addi rd ra imm => formatI 0x04 (regBits rd) (regBits ra) imm
  | .ori rd ra imm => formatI 0x05 (regBits rd) (regBits ra) imm
  | .lui rd imm => formatI 0x06 (regBits rd) 0 imm
  | .add rd ra rb => formatR 0x08 (regBits rd) (regBits ra) (regBits rb) 0
  | .sub rd ra rb => formatR 0x09 (regBits rd) (regBits ra) (regBits rb) 0
  | .cmp ra rb => formatR 0x0A 0 (regBits ra) (regBits rb) 0
  | .ldw rd ra imm => formatI 0x0C (regBits rd) (regBits ra) imm
  | .stw rs ra imm => formatI 0x0D (regBits rs) (regBits ra) imm
  | .rdcsr rd csr => formatI 0x0E (regBits rd) 0 csr
  | .wrcsr csr ra => formatI 0x0F 0 (regBits ra) csr
  | .ldcur ra => formatR 0x10 0 (regBits ra) 0 0
  | .metric met dir rd ra rb =>
    formatR 0x11 (regBits rd) (regBits ra) (regBits rb)
      (modeField (metricBit met) (0#1 ++ BitVec.ofBool (dirBit dir)))
  | .act met rd => formatR 0x12 (regBits rd) 0 0 (modeField (metricBit met) 0)
  | .msrch met dir rd ra => formatR 0x14 (regBits rd) (regBits ra) 0 (modeField (metricBit met) (searchDirCode dir))
  | .mdec rd => formatR 0x15 (regBits rd) 0 0 0
  | .tqmb mode => formatR 0x18 0 0 0 (modeField false (modeCode mode))
  | .ecmb => formatN 0x1C
  | .putb ra n => formatR 0x1D 0 (regBits ra) 0 (0#8 ++ n)
  | .align => formatN 0x1E
  | .flush => formatN 0x1F
  | .frmbeg t => formatR 0x20 0 0 0 (modeField false (frameTypeCode t))
  | .frmend => formatN 0x21
  | .frmnext keep => formatR 0x22 0 0 0 (modeField false (0#1 ++ BitVec.ofBool keep))

end Sys2Proof
end

