-- ==== Sys2Proof/Config.lean ====
section
/-! DEFINITION. What an implementation or a platform fixes: the identification constant and the parameters the
spec leaves open (rules R6, R31; rows U1 and U5 of `93_implementation_defined.md`). -/

namespace Sys2Proof.Config

/-- The constant that register `ID` reads (rule R31). -/
def idWord : Word := 0x4D450601#32

/-- What a byte of shared memory reads as when nothing has written it. DESIGN CHOICE, unsafe for claims about
the memory of the reset state only: U1 allows any contents, and a state that lists its bytes has any contents
(log 1). -/
def powerUpByte : Byte := 0#8

/-- `MEMSIZE` of the reset state. DESIGN CHOICE: rule R6 leaves the value open in 1..2^32, and the field
`State.memSize` may hold any of them (log 2). -/
def resetMemSize : Nat := 4294967296

/-- `MMIOBASE` of rule R6: where the platform places the host's register window. A free value: no rule depends
on it (log 3). -/
opaque mmioBase : Nat

end Sys2Proof.Config
end

