-- ==== Sys2Proof/Machine/State.lean ====
section
/-! DEFINITION. Everything the spec gives the machine (`10_state.md`), shared memory (`20_memory.md` rule R80), and
three fields of the model's own (`memSize`, `host.script`, `host.lastRead`), as plain data; the reasons a step can
stop; and the state after reset (rule R70). -/

namespace Sys2Proof.Machine

/-! ### Reasons a step stops -/

/-- Why a step of the model answers no next state. A fault of the MEE itself (rule R304) is NOT one of these: it
is a next state. -/
inductive Fault where
  /-- Raised by `step`: the engine is idle (`BUSY = 0`, rule R24) and no host step is pending, so no agent moves.
  The spec's treatment is "stuck" (section 2 of `93_implementation_defined.md`). Safe (log 5). -/
  | noAgentSteps
  /-- Raised by `step`: a host memory access at a byte address that does not exist (rule R84 gives the engine's
  BusFault for it and says nothing of the host). Safe (log 7). -/
  | hostAddressAbsent (address : Nat)
deriving DecidableEq, Repr

/-- Why a step refuses. -/
inductive Refusal where
  /-- Raised by `exec` alone, for an instruction without a meaning. Safe. No arm of this model uses it. -/
  | notModelled (mnemonic : String)
deriving DecidableEq, Repr

/-! ### The fault codes of the MEE -/

/-- The ten fault codes of rule R301, in the order of their numbers 1 .. 10. -/
inductive FaultCode where
  | illegalCommand | misalignedFetch | busFault | misalignedAccess | illegalCsr | stateFault | operandFault
  | configFault | outOverflow | modeFault
deriving DecidableEq, Repr

/-! ### Groups of state -/

/-- The five flags (rule R23). -/
structure Flags where
  z : Bool
  lt : Bool
  ltu : Bool
  esc : Bool
  exh : Bool
deriving DecidableEq, Repr

/-- The run state and the sticky host error bit (rules R24, R33). -/
structure RunState where
  busy : Bool
  halted : Bool
  fault : Bool
  stopped : Bool
  stopReq : Bool
  hwErr : Bool
deriving DecidableEq, Repr

/-- The cause registers, written together by a fault (rule R34). -/
structure CauseRegs where
  cause : BitVec 8
  faddr : Word
  finfo : Word
deriving DecidableEq, Repr

/-- Interrupt enables and pending bits (rule R35): bit 0 DONE, 1 FAULT, 2 EXH, 3 STOPPED. -/
structure IrqRegs where
  enable : BitVec 4
  status : BitVec 4
deriving DecidableEq, Repr

/-- The states of the frame state machine, numbered 0 .. 3 (rules R52, R280). -/
inductive FrameState where
  | awaiting | selecting | encoding | complete
deriving DecidableEq, Repr

/-- The frame's progress: `FS`, `UPHASE`, `FTYPE`, `FINDEX`, `MBCOUNT` (rules R37, R51, R52). -/
structure FrameRegs where
  fs : FrameState
  uphase : Bool
  ftype : FrameType
  findex : BitVec 16
  mbcount : BitVec 16
deriving DecidableEq, Repr

/-- One reference slot (rule R43). -/
structure RefSlot where
  valid : Bool
  index : BitVec 16
  y : Word
  cb : Word
  cr : Word
deriving DecidableEq, Repr

/-- The frame-locked configuration (class RWF of rules R25, R26), except the sink's registers. -/
structure ConfigRegs where
  frmw : BitVec 12
  frmh : BitVec 12
  curY : Word
  curCb : Word
  curCr : Word
  recY : Word
  recCb : Word
  recCr : Word
  fwdSel : Fin 4
  bwdSel : Fin 4
  refs : Vector RefSlot 4
  sradius : BitVec 10
  refWin : BitVec 3
  qinit : BitVec 5
  xform : Bool
  qm : Vector (BitVec 8) 64
deriving DecidableEq, Repr

/-- The intra bias and the search results (rules R39, R49). `memode = intra` is the register value 0, "no search
has run since `FRMBEG`". -/
structure SearchRegs where
  intraBias : Word
  mvf : Word
  mvb : Word
  distf : Word
  distb : Word
  disti : Word
  memode : CodingMode
  mdist : Word
  actcost : Word
deriving DecidableEq, Repr

/-- The current unit: the three sample buffers in raster order (rule R62), `CURPOS` and `CURVALID` (rule R50). -/
structure CurUnit where
  y : Vector Byte 256
  cb : Vector Byte 64
  cr : Vector Byte 64
  pos : Word
  valid : Bool
deriving DecidableEq, Repr

/-- Quantizer scales, counters and DC predictors (rules R45, R47, R48). -/
structure QuantRegs where
  qscale : BitVec 5
  mbq : BitVec 5
  prevq : BitVec 5
  exhcnt : Word
  esccnt : Word
  dcpy : Word
  dcpcb : Word
  dcpcr : Word
deriving DecidableEq, Repr

/-- The unit registers: mode and vectors of the unit quantized last, vector predictors (rule R51). -/
structure UnitRegs where
  mode : CodingMode
  mvf : Word
  mvb : Word
  pmvf : Word
  pmvb : Word
deriving DecidableEq, Repr

/-- The bit sink's registers (rules R53, R250). -/
structure SinkRegs where
  base : Word
  limit : Word
  bitpos : Word
  acc : Byte
deriving DecidableEq, Repr

/-- Shared memory (rule R80): the listed bytes, in the canonical form of `Memory.wf`; an unlisted address reads as
`Config.powerUpByte`. -/
abbrev Memory := List Host.Cell

/-! ### The host agent -/

/-- One host step (rule R13): a register access by number (rule R25), an access to one byte of shared memory, or the
platform's reset input (rule R340). -/
inductive HostAccess where
  | readReg (n : Nat)
  | writeReg (n : Nat) (value : Word)
  | readByte (address : Nat)
  | writeByte (address : Nat) (value : Byte)
  | resetInput
deriving DecidableEq, Repr

/-- One turn of the interleaving of the two agents (U3 of `93_implementation_defined.md`). -/
inductive Turn where
  | engine
  | host (access : HostAccess)
deriving DecidableEq, Repr

/-- The host agent, the model's own plain data (log 4): the turns still to come (when none is left, every turn is the
engine's), and the value its last read returned. -/
structure HostAgent where
  script : List Turn
  lastRead : Word
deriving DecidableEq, Repr

/-! ### The state -/

/-- The whole state of the machine (rule R20), shared memory, `MEMSIZE` (rule R6) and the host agent. -/
structure State where
  regs : Vector Word 16
  cp : Word
  flags : Flags
  run : RunState
  cause : CauseRegs
  irq : IrqRegs
  frame : FrameRegs
  cfg : ConfigRegs
  me : SearchRegs
  cur : CurUnit
  quant : QuantRegs
  mb : UnitRegs
  qc : Vector (Vector Int 64) 6
  sink : SinkRegs
  mem : Memory
  memSize : Nat
  host : HostAgent
deriving DecidableEq, Repr

/-- The machine right after reset (rules R70, R340): every register 0, every `QMp` 16, the engine idle, memory with
nothing listed (log 1), `MEMSIZE` of Config (log 2), no host step pending (log 4). -/
def State.reset : State where
  regs := Vector.replicate 16 0
  cp := 0
  flags := ⟨false, false, false, false, false⟩
  run := ⟨false, false, false, false, false, false⟩
  cause := ⟨0, 0, 0⟩
  irq := ⟨0, 0⟩
  frame := ⟨.awaiting, false, .intra, 0, 0⟩
  cfg :=
    { frmw := 0, frmh := 0, curY := 0, curCb := 0, curCr := 0, recY := 0, recCb := 0, recCr := 0
      fwdSel := 0, bwdSel := 0, refs := Vector.replicate 4 ⟨false, 0, 0, 0, 0⟩
      sradius := 0, refWin := 0, qinit := 0, xform := false, qm := Vector.replicate 64 16 }
  me := ⟨0, 0, 0, 0, 0, 0, .intra, 0, 0⟩
  cur := ⟨Vector.replicate 256 0, Vector.replicate 64 0, Vector.replicate 64 0, 0, false⟩
  quant := ⟨0, 0, 0, 0, 0, 0, 0, 0⟩
  mb := ⟨.intra, 0, 0, 0, 0⟩
  qc := Vector.replicate 6 (Vector.replicate 64 0)
  sink := ⟨0, 0, 0, 0⟩
  mem := []
  memSize := Config.resetMemSize
  host := ⟨[], 0⟩

end Sys2Proof.Machine
end

