-- ==== Sys2Proof/Machine/Flags.lean ====
section
/-! DEFINITION. Every flag computation of the spec (rules R23, R143, R149): the flag register as a word, what `CMP`
computes, what a branch condition tests. -/

namespace Sys2Proof.Machine

/-- `FLAGS` as read: bits 4:0 are EXH, ESC, LTU, LT, Z and the rest 0 (rule R23). -/
def flagsWord (f : Flags) : Word :=
  0#27 ++ BitVec.ofBool f.exh ++ BitVec.ofBool f.esc ++ BitVec.ofBool f.ltu ++ BitVec.ofBool f.lt ++ BitVec.ofBool f.z

/-- The flags a written word sets, from its bits 4:0 (rule R23). -/
def flagsOfWord (w : Word) : Flags :=
  { z := w.getLsbD 0, lt := w.getLsbD 1, ltu := w.getLsbD 2, esc := w.getLsbD 3, exh := w.getLsbD 4 }

/-- The flags after `CMP` of `a` and `b`: `Z` equal, `LT` signed less, `LTU` unsigned less; the other two kept
(rule R149). -/
def compareFlags (f : Flags) (a b : Word) : Flags :=
  { f with z := a == b, lt := decide (a.toInt < b.toInt), ltu := decide (a.toNat < b.toNat) }

/-- Whether a branch of this condition is taken (rule R143). -/
def condHolds (f : Flags) : Cond → Bool
  | .al => true
  | .eq => f.z
  | .ne => !f.z
  | .lt => f.lt
  | .ge => !f.lt
  | .ltu => f.ltu
  | .geu => !f.ltu
  | .esc => f.esc
  | .nesc => !f.esc
  | .exh => f.exh
  | .nexh => !f.exh

end Sys2Proof.Machine
end

