-- ==== Sys2Proof/Machine/Csr.lean ====
section
/-! DEFINITION. The control and status registers (`10_state.md` rules R25 to R55): their numbers, their access
classes, what each reads as, and what a stored value keeps of it. -/

namespace Sys2Proof.Machine

/-- The registers of the table of rule R26, in its order. -/
inductive Csr where
  | id | ctrl | status | cause | faddr | finfo | irqen | irqst | cp | flags
  | frmw | frmh | ftype | findex
  | curY | curCb | curCr | recY | recCb | recCr | fwdSel | bwdSel
  | refCtl (i : Fin 4) | refY (i : Fin 4) | refCb (i : Fin 4) | refCr (i : Fin 4)
  | sradius | intraBias | refWin
  | mvf | mvb | distf | distb | disti | memode | mdist | actcost | curpos
  | qinit | qscale | tqcfg | mbq | prevq | exhcnt | esccnt
  | dcpy | dcpcb | dcpcr | pmvf | pmvb | mbmode | mbcount | mbmvf | mbmvb
  | outbase | outlimit | bitpos | acc
  | qm (p : Fin 64)
  | qc (k : Fin 6) (n : Fin 64)
deriving DecidableEq, Repr

/-- The access classes of rule R25. -/
inductive CsrClass where
  | ro | rw | rwf | hc | hi
deriving DecidableEq, Repr

/-- The register of reference slot `i` at offset `off` of its four (rule R43). -/
def slotCsr (i : Fin 4) (off : Nat) : Csr :=
  match off with
  | 0 => .refCtl i
  | 1 => .refY i
  | 2 => .refCb i
  | _ => .refCr i

/-- The register a number names, if it exists (rule R26). -/
def csrOfNumber (n : Nat) : Option Csr :=
  match n with
  | 0x000 => some .id | 0x001 => some .ctrl | 0x002 => some .status | 0x003 => some .cause
  | 0x004 => some .faddr | 0x005 => some .finfo | 0x006 => some .irqen | 0x007 => some .irqst
  | 0x008 => some .cp | 0x009 => some .flags
  | 0x010 => some .frmw | 0x011 => some .frmh | 0x012 => some .ftype | 0x013 => some .findex
  | 0x014 => some .curY | 0x015 => some .curCb | 0x016 => some .curCr
  | 0x017 => some .recY | 0x018 => some .recCb | 0x019 => some .recCr
  | 0x01A => some .fwdSel | 0x01B => some .bwdSel
  | 0x030 => some .sradius | 0x031 => some .intraBias | 0x032 => some .refWin
  | 0x034 => some .mvf | 0x035 => some .mvb | 0x036 => some .distf | 0x037 => some .distb
  | 0x038 => some .disti | 0x039 => some .memode | 0x03A => some .mdist | 0x03B => some .actcost
  | 0x03C => some .curpos
  | 0x040 => some .qinit | 0x041 => some .qscale | 0x042 => some .tqcfg | 0x043 => some .mbq
  | 0x044 => some .prevq | 0x045 => some .exhcnt | 0x046 => some .esccnt
  | 0x048 => some .dcpy | 0x049 => some .dcpcb | 0x04A => some .dcpcr
  | 0x04C => some .pmvf | 0x04D => some .pmvb | 0x04E => some .mbmode | 0x04F => some .mbcount
  | 0x050 => some .mbmvf | 0x051 => some .mbmvb
  | 0x058 => some .outbase | 0x059 => some .outlimit | 0x05A => some .bitpos | 0x05B => some .acc
  | _ =>
    if 0x020 ≤ n ∧ n < 0x030 then some (slotCsr (Fin.ofNat 4 ((n - 0x020) / 4)) ((n - 0x020) % 4))
    else if 0x080 ≤ n ∧ n < 0x0C0 then some (.qm (Fin.ofNat 64 (n - 0x080)))
    else if 0x100 ≤ n ∧ n < 0x280 then
      some (.qc (Fin.ofNat 6 ((n - 0x100) / 64)) (Fin.ofNat 64 ((n - 0x100) % 64)))
    else none

/-- The access class of a register (rule R26). -/
def csrClass : Csr → CsrClass
  | .id | .status | .cause | .faddr | .finfo => .ro
  | .ctrl | .irqen | .irqst => .hc
  | .cp => .hi
  | .flags => .rw
  | .frmw | .frmh => .rwf
  | .ftype => .ro
  | .findex => .rw
  | .curY | .curCb | .curCr | .recY | .recCb | .recCr | .fwdSel | .bwdSel => .rwf
  | .refCtl _ | .refY _ | .refCb _ | .refCr _ => .rwf
  | .sradius => .rwf
  | .intraBias => .rw
  | .refWin => .rwf
  | .mvf | .mvb => .rw
  | .distf | .distb | .disti | .memode | .mdist | .actcost | .curpos => .ro
  | .qinit => .rwf
  | .qscale => .rw
  | .tqcfg => .rwf
  | .mbq | .prevq => .ro
  | .exhcnt | .esccnt | .dcpy | .dcpcb | .dcpcr => .rw
  | .pmvf | .pmvb | .mbmode | .mbcount | .mbmvf | .mbmvb => .ro
  | .outbase | .outlimit | .bitpos => .rwf
  | .acc => .ro
  | .qm _ => .rwf
  | .qc _ _ => .ro

/-- The number of a frame state (rule R52). -/
def frameStateNumber : FrameState → BitVec 2
  | .awaiting => 0 | .selecting => 1 | .encoding => 2 | .complete => 3

/-- `STATUS[7:4]`: `FS + 4*UPHASE + 8*CURVALID` (rules R33, R176). -/
def stateBits (s : State) : BitVec 4 :=
  BitVec.ofBool s.cur.valid ++ BitVec.ofBool s.frame.uphase ++ frameStateNumber s.frame.fs

/-- `STATUS` (rule R33). -/
def statusWord (s : State) : Word :=
  0#23 ++ BitVec.ofBool s.run.hwErr ++ stateBits s ++ BitVec.ofBool s.run.stopped ++ BitVec.ofBool s.run.fault
    ++ BitVec.ofBool s.run.halted ++ BitVec.ofBool s.run.busy

/-- What a register reads as, by `RDCSR` or by the host; no read has a side effect (rules R25, R154, R317). -/
def csrRead (s : State) : Csr → Word
  | .id => Config.idWord
  | .ctrl => 0
  | .status => statusWord s
  | .cause => s.cause.cause.setWidth 32
  | .faddr => s.cause.faddr
  | .finfo => s.cause.finfo
  | .irqen => s.irq.enable.setWidth 32
  | .irqst => s.irq.status.setWidth 32
  | .cp => s.cp
  | .flags => flagsWord s.flags
  | .frmw => s.cfg.frmw.setWidth 32
  | .frmh => s.cfg.frmh.setWidth 32
  | .ftype => (frameTypeCode s.frame.ftype).setWidth 32
  | .findex => s.frame.findex.setWidth 32
  | .curY => s.cfg.curY
  | .curCb => s.cfg.curCb
  | .curCr => s.cfg.curCr
  | .recY => s.cfg.recY
  | .recCb => s.cfg.recCb
  | .recCr => s.cfg.recCr
  | .fwdSel => BitVec.ofNat 32 s.cfg.fwdSel.val
  | .bwdSel => BitVec.ofNat 32 s.cfg.bwdSel.val
  | .refCtl i => BitVec.ofBool s.cfg.refs[i].valid ++ 0#15 ++ s.cfg.refs[i].index
  | .refY i => s.cfg.refs[i].y
  | .refCb i => s.cfg.refs[i].cb
  | .refCr i => s.cfg.refs[i].cr
  | .sradius => s.cfg.sradius.setWidth 32
  | .intraBias => s.me.intraBias
  | .refWin => s.cfg.refWin.setWidth 32
  | .mvf => s.me.mvf
  | .mvb => s.me.mvb
  | .distf => s.me.distf
  | .distb => s.me.distb
  | .disti => s.me.disti
  | .memode => (modeCode s.me.memode).setWidth 32
  | .mdist => s.me.mdist
  | .actcost => s.me.actcost
  | .curpos => s.cur.pos
  | .qinit => s.cfg.qinit.setWidth 32
  | .qscale => s.quant.qscale.setWidth 32
  | .tqcfg => (BitVec.ofBool s.cfg.xform).setWidth 32
  | .mbq => s.quant.mbq.setWidth 32
  | .prevq => s.quant.prevq.setWidth 32
  | .exhcnt => s.quant.exhcnt
  | .esccnt => s.quant.esccnt
  | .dcpy => s.quant.dcpy
  | .dcpcb => s.quant.dcpcb
  | .dcpcr => s.quant.dcpcr
  | .pmvf => s.mb.pmvf
  | .pmvb => s.mb.pmvb
  | .mbmode => (modeCode s.mb.mode).setWidth 32
  | .mbcount => s.frame.mbcount.setWidth 32
  | .mbmvf => s.mb.mvf
  | .mbmvb => s.mb.mvb
  | .outbase => s.sink.base
  | .outlimit => s.sink.limit
  | .bitpos => s.sink.bitpos
  | .acc => s.sink.acc.setWidth 32
  | .qm p => s.cfg.qm[p].setWidth 32
  | .qc k n => BitVec.ofInt 32 s.qc[k][n]

/-- A reference slot changed (rule R43). -/
def setSlot (s : State) (i : Fin 4) (slot : RefSlot) : State :=
  { s with cfg := { s.cfg with refs := s.cfg.refs.set i slot } }

/-- The value a write stores, for the registers of the classes RW, RWF and HI; only the implemented bits are kept
(rule R25), and a write to `BITPOS` clears `ACC` (rule R53). The registers of the classes RO and HC are stored to by
no write of this kind and stay as they are. -/
def csrStore (s : State) (c : Csr) (v : Word) : State :=
  match c with
  | .cp => { s with cp := v }
  | .flags => { s with flags := flagsOfWord v }
  | .frmw => { s with cfg := { s.cfg with frmw := v.setWidth 12 } }
  | .frmh => { s with cfg := { s.cfg with frmh := v.setWidth 12 } }
  | .findex => { s with frame := { s.frame with findex := v.setWidth 16 } }
  | .curY => { s with cfg := { s.cfg with curY := v } }
  | .curCb => { s with cfg := { s.cfg with curCb := v } }
  | .curCr => { s with cfg := { s.cfg with curCr := v } }
  | .recY => { s with cfg := { s.cfg with recY := v } }
  | .recCb => { s with cfg := { s.cfg with recCb := v } }
  | .recCr => { s with cfg := { s.cfg with recCr := v } }
  | .fwdSel => { s with cfg := { s.cfg with fwdSel := Fin.ofNat 4 v.toNat } }
  | .bwdSel => { s with cfg := { s.cfg with bwdSel := Fin.ofNat 4 v.toNat } }
  | .refCtl i => setSlot s i { s.cfg.refs[i] with valid := v.getLsbD 31, index := v.setWidth 16 }
  | .refY i => setSlot s i { s.cfg.refs[i] with y := v }
  | .refCb i => setSlot s i { s.cfg.refs[i] with cb := v }
  | .refCr i => setSlot s i { s.cfg.refs[i] with cr := v }
  | .sradius => { s with cfg := { s.cfg with sradius := v.setWidth 10 } }
  | .intraBias => { s with me := { s.me with intraBias := v } }
  | .refWin => { s with cfg := { s.cfg with refWin := v.setWidth 3 } }
  | .mvf => { s with me := { s.me with mvf := v } }
  | .mvb => { s with me := { s.me with mvb := v } }
  | .qinit => { s with cfg := { s.cfg with qinit := v.setWidth 5 } }
  | .qscale => { s with quant := { s.quant with qscale := v.setWidth 5 } }
  | .tqcfg => { s with cfg := { s.cfg with xform := v.getLsbD 0 } }
  | .exhcnt => { s with quant := { s.quant with exhcnt := v } }
  | .esccnt => { s with quant := { s.quant with esccnt := v } }
  | .dcpy => { s with quant := { s.quant with dcpy := v } }
  | .dcpcb => { s with quant := { s.quant with dcpcb := v } }
  | .dcpcr => { s with quant := { s.quant with dcpcr := v } }
  | .outbase => { s with sink := { s.sink with base := v } }
  | .outlimit => { s with sink := { s.sink with limit := v } }
  | .bitpos => { s with sink := { s.sink with bitpos := v, acc := 0 } }
  | .qm p => { s with cfg := { s.cfg with qm := s.cfg.qm.set p (v.setWidth 8) } }
  | .id | .ctrl | .status | .cause | .faddr | .finfo | .irqen | .irqst | .ftype | .distf | .distb | .disti
  | .memode | .mdist | .actcost | .curpos | .mbq | .prevq | .pmvf | .pmvb | .mbmode | .mbcount | .mbmvf
  | .mbmvb | .acc | .qc _ _ => s

end Sys2Proof.Machine
end

