-- ==== Sys2Proof/Machine/Memory.lean ====
section
/-! DEFINITION. Shared memory (`20_memory.md` rules R80, R81, R84): reading and writing bytes and words of the
canonical list, byte ranges, and the check that a command makes of every address it will touch. -/

namespace Sys2Proof.Machine

/-- `MemRead(a, 1)`: the listed byte, or what an unlisted address reads as (log 1). -/
def Memory.read : Memory → Nat → Byte
  | [], _ => Config.powerUpByte
  | (a, b) :: rest, x => if a = x then b else Memory.read rest x

/-- A cell put in its place in the rising order. -/
def Memory.insert (x : Nat) (v : Byte) : Memory → Memory
  | [] => [(x, v)]
  | (a, b) :: rest => if x < a then (x, v) :: (a, b) :: rest else (a, b) :: Memory.insert x v rest

/-- The memory with address `x` not listed. -/
def Memory.erase (m : Memory) (x : Nat) : Memory := m.filter fun c => c.1 != x

/-- `MemWrite(x, 1, v)`, in canonical form: the value an unlisted address reads as is not listed. -/
def Memory.write (m : Memory) (x : Nat) (v : Byte) : Memory :=
  if v = Config.powerUpByte then m.erase x else (m.erase x).insert x v

/-- The canonical form: addresses strictly rise, and no listed value is what an unlisted address reads as. -/
def Memory.wf : Memory → Bool
  | [] => true
  | [(_, v)] => v != Config.powerUpByte
  | (a, v) :: (b, w) :: rest => v != Config.powerUpByte && decide (a < b) && Memory.wf ((b, w) :: rest)

/-- The listed cells of the `n` addresses from `a` on. -/
def Memory.window (m : Memory) (a n : Nat) : Memory := m.filter fun c => decide (a ≤ c.1) && decide (c.1 < a + n)

/-- The bytes at addresses `a .. a+n-1`. -/
def Memory.readRange (m : Memory) (a n : Nat) : List Byte :=
  (List.range n).map fun i => (m.window a n).read (a + i)

/-- Consecutive bytes written from `a` on, the first at `a`. -/
def Memory.writeRange (m : Memory) (a : Nat) : List Byte → Memory
  | [] => m
  | b :: rest => Memory.writeRange (m.write a b) (a + 1) rest

/-- `MemRead(a, 4)`, little-endian (rule R81a). -/
def Memory.readWord (m : Memory) (a : Nat) : Word :=
  wordOfBytes (m.read a) (m.read (a + 1)) (m.read (a + 2)) (m.read (a + 3))

/-- `MemWrite(a, 4, w)`, little-endian (rule R81a). -/
def Memory.writeWord (m : Memory) (a : Nat) (w : Word) : Memory := m.writeRange a (bytesOfWord w)

/-- A run of byte addresses `first .. first + len - 1`, an unbounded integer range (rule R84). -/
structure Span where
  first : Nat
  len : Nat
deriving DecidableEq, Repr

/-- The lowest address of some spans that does not exist, if any (rules R84, R174). -/
def lowestFailing (memSize : Nat) : List Span → Option Nat
  | [] => none
  | sp :: rest =>
    if sp.len ≠ 0 ∧ memSize < sp.first + sp.len then
      match lowestFailing memSize rest with
      | some a => some (min (max sp.first memSize) a)
      | none => some (max sp.first memSize)
    else lowestFailing memSize rest

end Sys2Proof.Machine
end

