-- ==== Sys2Proof/Machine/Ops.lean ====
section
/-! DEFINITION. The shared operations of the engine: general registers (rule R21), completion of a command (rule
R140), taking a fault (rule R304), honouring a stop (rule R312), and the host's resumption of a stopped engine
(rules R32, R306). -/

namespace Sys2Proof.Machine

/-! ### General registers -/

/-- `x[r]`: `R0` reads as 0 (rules R8, R21). -/
def State.x (s : State) (r : Reg) : Word := if r = 0 then 0 else s.regs[r]

/-- `x[r] <- v`: a write to `R0` is discarded (rules R8, R21). -/
def State.setX (s : State) (r : Reg) (v : Word) : State :=
  if r = 0 then s else { s with regs := s.regs.set r v }

/-! ### Completion and faults -/

/-- The address after the command (rules R22, R140 step 6). -/
def nextCp (s : State) : Word := s.cp + 4

/-- A command that completed without a transfer of control (rule R140 step 6). -/
def State.advance (s : State) : State := { s with cp := nextCp s }

/-- A fault raised by a check: its code and its detail, an unbounded integer that the entry reduces (rules R8, R301). -/
structure Trap where
  code : FaultCode
  info : Nat
deriving DecidableEq, Repr

/-- The number of a fault code (rule R301). -/
def faultNumber : FaultCode → BitVec 8
  | .illegalCommand => 1 | .misalignedFetch => 2 | .busFault => 3 | .misalignedAccess => 4 | .illegalCsr => 5
  | .stateFault => 6 | .operandFault => 7 | .configFault => 8 | .outOverflow => 9 | .modeFault => 10

/-- The interrupt sources as bits of `IRQST` (rules R35, R310). -/
def irqDone : BitVec 4 := 1#4
/-- Bit 1, a fault was taken. -/
def irqFault : BitVec 4 := 2#4
/-- Bit 2, a `TQMB` ended with clamping. -/
def irqExh : BitVec 4 := 4#4
/-- Bit 3, a stop was honoured. -/
def irqStopped : BitVec 4 := 8#4

/-- An event sets its pending bit, whether or not it is enabled (rule R310). -/
def State.raiseIrq (s : State) (source : BitVec 4) : State :=
  { s with irq := { s.irq with status := s.irq.status ||| source } }

/-- The interrupt line (rule R310). -/
def irqLine (s : State) : Bool := s.irq.status &&& s.irq.enable != 0

/-- Taking a fault (rule R304): cause registers written, `FAULT` set, `BUSY` and `STOPREQ` cleared, `IRQST.FAULT`
set; everything else, `CP` included, stays as before the faulting command. -/
def State.takeFault (s : State) (t : Trap) : State :=
  { s with
    cause := ⟨faultNumber t.code, s.cp, BitVec.ofNat 32 t.info⟩
    run := { s.run with fault := true, busy := false, stopReq := false } }.raiseIrq irqFault

/-- Honouring a stop request instead of a step (rule R312). -/
def State.takeStop (s : State) : State :=
  { s with run := { s.run with busy := false, stopped := true, stopReq := false } }.raiseIrq irqStopped

/-- `CTRL.CLRFAULT`: the cause registers, `FAULT` and `HWERR` cleared (rule R32). -/
def State.clearFault (s : State) : State :=
  { s with cause := ⟨0, 0, 0⟩, run := { s.run with fault := false, hwErr := false } }

/-- An accepted `CTRL.GO` (rule R32): execution goes on at `CP`, after a fault at the faulting command (rule R306). -/
def State.startEngine (s : State) : State :=
  { s with run := { s.run with busy := true, halted := false, stopped := false } }

/-! ### Check, then commit -/

/-- A check of a command's rule: the fault unless the condition holds. -/
def require (ok : Bool) (t : Trap) : Except Trap Unit := if ok then .ok () else .error t

/-- The check of every address a command will touch: BusFault with the lowest one that does not exist (rules R84,
R174). -/
def requireInMemory (s : State) (spans : List Span) : Except Trap Unit :=
  match lowestFailing s.memSize spans with
  | none => .ok ()
  | some a => .error ⟨.busFault, a⟩

/-- The outcome of a command whose rule either raises a fault, and then has changed nothing (rule R305), or gives
the state it leaves, `CP` included. -/
def commit (s : State) (r : Except Trap State) : Host.Outcome State Fault Refusal :=
  match r with
  | .ok t => .next t
  | .error t => .next (s.takeFault t)

/-- The outcome of a command that completes and goes on to the next one (rule R140 step 6). -/
def complete (s : State) (r : Except Trap State) : Host.Outcome State Fault Refusal :=
  match r with
  | .ok t => .next t.advance
  | .error t => .next (s.takeFault t)

/-- The StateFault of a command that the frame state does not allow (rules R176, R280). -/
def stateFault (s : State) : Trap := ⟨.stateFault, (stateBits s).toNat⟩

/-- `FS` in {1, 2} (rules R176, R280). -/
def inFrame (s : State) : Bool := s.frame.fs == .selecting || s.frame.fs == .encoding

end Sys2Proof.Machine
end

