-- ==== Sys2Proof/Machine/Operands.lean ====
section
/-! DEFINITION. Operand forms: the effective address and the branch target of the sequencer (rules R113, R151),
positions and vectors packed in registers (rule R10), frame geometry (rule R37), planes and their footprints (rules
R96, R172 to R174, R177), and what makes a vector a candidate (rule R190). -/

namespace Sys2Proof.Machine

/-! ### Sequencer operands -/

/-- The effective address of `LDW` and `STW`, modulo 2^32 (rule R151). -/
def effectiveAddress (s : State) (ra : Reg) (imm : BitVec 16) : Word := s.x ra + sext16 imm

/-- The target of a branch, modulo 2^32 (rules R113, R143). -/
def branchTarget (s : State) (off22 : BitVec 22) : Word := s.cp + 4 + 4 * off22.signExtend 32

/-! ### Positions and vectors -/

/-- A pair of integers: a position in samples or a motion vector in half-samples (rule R10). -/
structure Vec where
  x : Int
  y : Int
deriving DecidableEq, Repr

/-- A packed pair unpacked by `lo16s` and `hi16s` (rule R10). -/
def unpack (w : Word) : Vec := ⟨lo16s w, hi16s w⟩

/-- A pair packed (rule R10). -/
def Vec.pack (v : Vec) : Word := Machine.pack v.x v.y

/-! ### Geometry -/

/-- `W = FRMW` (rule R37). -/
def lumaW (s : State) : Nat := s.cfg.frmw.toNat
/-- `H = FRMH` (rule R37). -/
def lumaH (s : State) : Nat := s.cfg.frmh.toNat
/-- `CW = W/2` (rule R37). -/
def chromaW (s : State) : Nat := lumaW s / 2
/-- `CH = H/2` (rule R37). -/
def chromaH (s : State) : Nat := lumaH s / 2
/-- `MBW = W/16` (rule R37). With a frame open it is 0 only in states that no run reaches (rule R287, log 11). -/
def unitsWide (s : State) : Nat := lumaW s / 16
/-- `MBH = H/16` (rule R37). -/
def unitsHigh (s : State) : Nat := lumaH s / 16

/-- A plane: base address, width and height in samples (rules R10, R172). -/
structure Plane where
  base : Nat
  width : Nat
  height : Nat
deriving DecidableEq, Repr

/-- The three planes of a frame (rule R96). -/
structure PlaneSet where
  y : Plane
  cb : Plane
  cr : Plane
deriving DecidableEq, Repr

/-- The planes at three base addresses, with the widths of the frame (rule R96). -/
def planesAt (s : State) (y cb cr : Word) : PlaneSet :=
  { y := ⟨y.toNat, lumaW s, lumaH s⟩, cb := ⟨cb.toNat, chromaW s, chromaH s⟩
    cr := ⟨cr.toNat, chromaW s, chromaH s⟩ }

/-- The source planes (rules R41, R96). -/
def sourcePlanes (s : State) : PlaneSet := planesAt s s.cfg.curY s.cfg.curCb s.cfg.curCr

/-- The reconstructed planes (rules R41, R96). -/
def recPlanes (s : State) : PlaneSet := planesAt s s.cfg.recY s.cfg.recCb s.cfg.recCr

/-- The slot of a direction: `FWDSEL` or `BWDSEL` (rule R177). -/
def refSlot (s : State) : Dir → RefSlot
  | .forward => s.cfg.refs[s.cfg.fwdSel]
  | .backward => s.cfg.refs[s.cfg.bwdSel]

/-- `RefPlanes(dir)` (rule R177). -/
def refPlanes (s : State) (dir : Dir) : PlaneSet :=
  planesAt s (refSlot s dir).y (refSlot s dir).cb (refSlot s dir).cr

/-- `RefLuma(dir)` (rule R177). -/
def refLuma (s : State) (dir : Dir) : Plane := (refPlanes s dir).y

/-- The byte address of sample `(x, y)`, an unbounded integer (rules R10, R84). -/
def Plane.address (p : Plane) (x y : Nat) : Nat := p.base + y * p.width + x

/-- The addresses of a block of `rows` rows of `cols` samples whose top left sample is `(x, y)`. -/
def Plane.spans (p : Plane) (x y cols rows : Nat) : List Span :=
  (List.range rows).map fun i => ⟨p.address x (y + i), cols⟩

/-- The rows of such a block as memory holds them (rule R96). -/
def Plane.rows (p : Plane) (m : Memory) (x y cols rows : Nat) : List (List Byte) :=
  (List.range rows).map fun i => m.readRange (p.address x (y + i)) cols

/-- Whether the unit whose top left luma sample is at `pos` lies inside the frame (rules R175, R178, R196). -/
def unitInside (s : State) (pos : Vec) : Bool :=
  decide (0 ≤ pos.x) && decide (0 ≤ pos.y) && decide (pos.x + 16 ≤ lumaW s) && decide (pos.y + 16 ≤ lumaH s)

/-! ### Displaced blocks -/

/-- `InPlane(px2, py2, N, PW, PH)` (rule R172); `at2` is the corner in half-samples. -/
def inPlane (at2 : Vec) (n w h : Nat) : Bool :=
  decide (0 ≤ at2.x) && decide (0 ≤ at2.y) && decide (at2.x / 2 + n + at2.x % 2 ≤ w)
    && decide (at2.y / 2 + n + at2.y % 2 ≤ h)

/-- The corner, in half-samples, of the block at origin `o` (full samples) displaced by `mv` (rules R178, R190). -/
def displaced (o mv : Vec) : Vec := ⟨2 * o.x + mv.x, 2 * o.y + mv.y⟩

/-- `Cand(ox, oy, mvx, mvy)` (rule R190). -/
def isCandidate (s : State) (o mv : Vec) : Bool :=
  decide (mv.x.natAbs ≤ s.cfg.sradius.toNat) && decide (mv.y.natAbs ≤ s.cfg.sradius.toNat)
    && inPlane (displaced o mv) 16 (lumaW s) (lumaH s)

/-- `FootprintBytes` as row spans (rule R174). -/
def footprint (p : Plane) (at2 : Vec) (n : Nat) : List Span :=
  p.spans (at2.x / 2).toNat (at2.y / 2).toNat (n + (at2.x % 2).toNat) (n + (at2.y % 2).toNat)

/-- Sums of horizontally adjacent samples of a row. -/
def pairSums (row : List Nat) : List Nat := List.zipWith (· + ·) row row.tail

/-- Sums of vertically adjacent samples of two rows. -/
def rowSums (a b : List Nat) : List Nat := List.zipWith (· + ·) a b

/-- `PredBlock` in raster order (rule R173): samples copied, or averaged over 2 or 4 neighbours with halves rounded
up. Callers have checked `inPlane` first. -/
def predBlock (m : Memory) (p : Plane) (at2 : Vec) (n : Nat) : List Nat :=
  let hx := (at2.x % 2).toNat
  let hy := (at2.y % 2).toNat
  let rows := (p.rows m (at2.x / 2).toNat (at2.y / 2).toNat (n + hx) (n + hy)).map (List.map BitVec.toNat)
  match decide (hx = 1), decide (hy = 1) with
  | false, false => rows.flatten
  | true, false => ((rows.map pairSums).flatten).map fun t => (t + 1) / 2
  | false, true => ((List.zipWith rowSums rows rows.tail).flatten).map fun t => (t + 1) / 2
  | true, true =>
    let sums := rows.map pairSums
    ((List.zipWith rowSums sums sums.tail).flatten).map fun t => (t + 2) / 4

/-- The rounded average of two predictions (rules R194, R210). -/
def average (a b : List Nat) : List Nat := List.zipWith (fun f g => (f + g + 1) / 2) a b

end Sys2Proof.Machine
end

