-- ==== Sys2Proof/Machine/BlockMetric.lean ====
section
/-! DEFINITION. The block metric and the meanings of `LDCUR`, `METRIC`, `ACT` (`41_block_metric.md`). -/

namespace Sys2Proof.Machine

/-- The distance of two samples under a metric (rule R170). -/
def sampleDistance (met : MetricKind) (a b : Int) : Nat :=
  match met with
  | .sad => (a - b).natAbs
  | .ssd => (a - b).natAbs * (a - b).natAbs

/-- `Metric(met, A, B)` of two blocks in raster order: always the full sum (rules R170, R171). -/
def blockMetric (met : MetricKind) (a b : List Nat) : Nat :=
  (List.zipWith (fun p q : Nat => sampleDistance met p q) a b).sum

/-- The luma samples of the current unit (rule R62). -/
def curLuma (s : State) : List Nat := s.cur.y.toList.map BitVec.toNat

/-- A list as a vector; the lists given to it have the vector's length. -/
def toVector {α : Type} (n : Nat) (pad : α) (l : List α) : Vector α n :=
  ⟨((l ++ List.replicate n pad).take n).toArray, by simp⟩

/-- The three source blocks of the unit at `(x, y)`: plane, corner and size (rule R175). -/
def unitSpans (p : PlaneSet) (x y : Nat) : List Span :=
  p.y.spans x y 16 16 ++ p.cb.spans (x / 2) (y / 2) 8 8 ++ p.cr.spans (x / 2) (y / 2) 8 8

/-- The position check of `LDCUR` (rule R175). -/
def unitAligned (s : State) (pos : Vec) : Bool :=
  unitInside s pos && decide (pos.x % 16 = 0) && decide (pos.y % 16 = 0)

/-- `CUR` loaded with the unit at `(x, y)` (rule R175). -/
def loadUnit (s : State) (x y : Nat) : CurUnit :=
  let p := sourcePlanes s
  { y := toVector 256 0 (p.y.rows s.mem x y 16 16).flatten
    cb := toVector 64 0 (p.cb.rows s.mem (x / 2) (y / 2) 8 8).flatten
    cr := toVector 64 0 (p.cr.rows s.mem (x / 2) (y / 2) 8 8).flatten
    pos := pack x y
    valid := true }

/-- `LDCUR` (rule R175). -/
def execLdcur (ra : Reg) (s : State) : Host.Outcome State Fault Refusal :=
  let pos := unpack (s.x ra)
  complete s do
    require (inFrame s && !s.frame.uphase) (stateFault s)
    require (unitAligned s pos) ⟨.operandFault, (s.x ra).toNat⟩
    requireInMemory s (unitSpans (sourcePlanes s) pos.x.toNat pos.y.toNat)
    pure { s with cur := loadUnit s pos.x.toNat pos.y.toNat }

/-- The coding mode number that a direction stands for, the detail of ModeFault (rules R178, R196): `dir + 1`. -/
def dirDetail : Dir → Nat
  | .forward => 1
  | .backward => 2

/-- Whether the frame type has the direction (rules R177, R178). -/
def dirAllowed (s : State) : Dir → Bool
  | .forward => s.frame.ftype != .intra
  | .backward => s.frame.ftype == .bidirectional

/-- `METRIC` (rule R178). -/
def execMetric (met : MetricKind) (dir : Dir) (rd ra rb : Reg) (s : State) : Host.Outcome State Fault Refusal :=
  let origin := unpack (s.x ra)
  let at2 := displaced origin (unpack (s.x rb))
  let p := refLuma s dir
  complete s do
    require (inFrame s && s.cur.valid) (stateFault s)
    require (dirAllowed s dir) ⟨.modeFault, dirDetail dir⟩
    require (unitInside s origin) ⟨.operandFault, (s.x ra).toNat⟩
    require (inPlane at2 16 (lumaW s) (lumaH s)) ⟨.operandFault, (s.x rb).toNat⟩
    requireInMemory s (footprint p at2 16)
    pure (s.setX rd (BitVec.ofNat 32 (blockMetric met (curLuma s) (predBlock s.mem p at2 16))))

/-- The rounded mean of the unit's luma (rule R180). -/
def lumaMean (s : State) : Nat := ((curLuma s).sum + 128) / 256

/-- The intra cost estimate: the metric between the luma and its own mean (rule R180). -/
def intraCost (met : MetricKind) (s : State) : Nat :=
  ((curLuma s).map fun p : Nat => sampleDistance met p (lumaMean s)).sum

/-- `ACT` (rule R180). -/
def execAct (met : MetricKind) (rd : Reg) (s : State) : Host.Outcome State Fault Refusal :=
  complete s do
    require (inFrame s && s.cur.valid) (stateFault s)
    let v : Word := BitVec.ofNat 32 (intraCost met s)
    pure ({ s with me := { s.me with actcost := v } }.setX rd v)

end Sys2Proof.Machine
end

