-- ==== Sys2Proof/Machine/Entropy.lean ====
section
/-! DEFINITION. The codes of the bitstream (`44_entropy_coder.md` rules R256 to R263). `true` is the character `1`. -/

namespace Sys2Proof.Machine

/-- A bit string written with the digits 0 and 1, first character first (rule R7). -/
def bits (digits : List Nat) : List Bool := digits.map fun d => d == 1

/-- `EOB` (rule R257). -/
def eobCode : List Bool := bits [1, 0]

/-- `ESC` (rule R257). -/
def escCode : List Bool := bits [0, 0, 0, 0, 0, 1]

/-- One row of the code table of rule R257. -/
structure PairCode where
  run : Nat
  magnitude : Nat
  code : List Bool
deriving DecidableEq, Repr

/-- The fifteen (run, magnitude) pairs that have a code, in the order of rule R257. -/
def pairTable : List PairCode :=
  [⟨0, 1, bits [1, 1]⟩,
   ⟨1, 1, bits [0, 1, 1]⟩,
   ⟨0, 2, bits [0, 1, 0, 0]⟩,
   ⟨2, 1, bits [0, 1, 0, 1]⟩,
   ⟨0, 3, bits [0, 0, 1, 0, 1]⟩,
   ⟨3, 1, bits [0, 0, 1, 1, 1]⟩,
   ⟨4, 1, bits [0, 0, 1, 1, 0]⟩,
   ⟨1, 2, bits [0, 0, 0, 1, 1, 0]⟩,
   ⟨5, 1, bits [0, 0, 0, 1, 1, 1]⟩,
   ⟨6, 1, bits [0, 0, 0, 1, 0, 1]⟩,
   ⟨7, 1, bits [0, 0, 0, 1, 0, 0]⟩,
   ⟨0, 4, bits [0, 0, 0, 0, 1, 1, 0]⟩,
   ⟨2, 2, bits [0, 0, 0, 0, 1, 0, 0]⟩,
   ⟨8, 1, bits [0, 0, 0, 0, 1, 1, 1]⟩,
   ⟨9, 1, bits [0, 0, 0, 0, 1, 0, 1]⟩]

/-- `PairBits(run, v)` (rules R257, R258): the table's code and a sign bit, or the escape. -/
def pairBits (run : Nat) (v : Int) : List Bool :=
  match pairTable.find? fun r => r.run == run && r.magnitude == v.natAbs with
  | some r => r.code ++ [decide (v < 0)]
  | none => escCode ++ bin 6 run ++ binInt 9 v

/-- The pairs of the levels still to come after `run` zeros, and the end-of-block marker (rule R256). -/
def blockBitsFrom (run : Nat) : List Int → List Bool
  | [] => eobCode
  | v :: rest => if v = 0 then blockBitsFrom (run + 1) rest else pairBits run v ++ blockBitsFrom 0 rest

/-- `BlockBits(Q)` (rule R256). -/
def blockBits (q : List Int) : List Bool := blockBitsFrom 0 q

/-- The index `k` of rule R260. -/
def svlcIndex (v : Int) : Nat := if 0 < v then 2 * v.natAbs - 1 else 2 * v.natAbs

/-- `SVLC(v)` (rule R260): `b - 1` zeros, then `k + 1` in `b` bits. -/
def svlc (v : Int) : List Bool :=
  let n := svlcIndex v + 1
  List.replicate (Nat.log2 n) false ++ bin (Nat.log2 n + 1) n

/-- The mode tag (rule R261). -/
def modeTag : CodingMode → List Bool
  | .intra => bits [1, 0]
  | .forward => bits [1, 1]
  | .backward => bits [0, 1, 0]
  | .interpolated => bits [0, 1, 1]

/-- The end-of-frame marker (rule R261). -/
def endOfFrame : List Bool := bits [0, 0, 1]

/-- The quantizer scale delta (rule R262). -/
def scaleDelta (mbq prevq : Nat) : List Bool :=
  if mbq = prevq then [false] else true :: binInt 6 ((mbq : Int) - prevq)

end Sys2Proof.Machine
end

