-- ==== Sys2Proof/Machine/Sink.lean ====
section
/-! DEFINITION. The bit sink (`44_entropy_coder.md` rules R250 to R252): appending a bit string, most significant bit of
each byte first. -/

namespace Sys2Proof.Machine

/-- One character appended (the loop body of rule R251): the byte is stored when it is complete. -/
def appendBit (k : SinkRegs × Memory) (c : Bool) : SinkRegs × Memory :=
  let pos := k.1.bitpos.toNat % 8
  let acc : Byte := if c then k.1.acc ||| (0x80#8 >>> pos) else k.1.acc
  let bitpos := k.1.bitpos + 1
  if pos = 7 then
    ({ k.1 with bitpos := bitpos, acc := 0 }, k.2.write (k.1.base.toNat + bitpos.toNat / 8 - 1) acc)
  else ({ k.1 with bitpos := bitpos, acc := acc }, k.2)

/-- A bit string appended, first character first (rule R251). -/
def appendBits (k : SinkRegs × Memory) (bits : List Bool) : SinkRegs × Memory := bits.foldl appendBit k

/-- The length of the stream after `n` more bits (`total` of rule R251). -/
def sinkTotal (s : State) (n : Nat) : Nat := s.sink.bitpos.toNat + n

/-- `lo` of rule R251: the address of the first byte an append touches. -/
def sinkLow (s : State) : Nat := s.sink.base.toNat + s.sink.bitpos.toNat / 8

/-- Whether `n` more bits fit the buffer and the bit counter (rules R251, R252). -/
def sinkFits (s : State) (n : Nat) : Bool :=
  decide (sinkTotal s n < 4294967296) && decide (bytesFor (sinkTotal s n) ≤ s.sink.limit.toNat)

/-- Whether every byte that `n` more bits touch exists: `hi < MEMSIZE` (rule R251). -/
def sinkReaches (s : State) (n : Nat) : Bool :=
  decide (s.sink.base.toNat + bytesFor (sinkTotal s n) ≤ s.memSize)

/-- The sink and memory after an append that passed its checks. -/
def State.appended (s : State) (bits : List Bool) : State :=
  { s with sink := (appendBits (s.sink, s.mem) bits).1, mem := (appendBits (s.sink, s.mem) bits).2 }

/-- `PutBits(s)` (rule R251): both checks are made once for the whole string; the empty string checks nothing. -/
def putBits (s : State) (bits : List Bool) : Except Trap State :=
  if bits.isEmpty then .ok s
  else do
    require (sinkFits s bits.length) ⟨.outOverflow, bits.length⟩
    require (sinkReaches s bits.length) ⟨.busFault, max (sinkLow s) s.memSize⟩
    pure (s.appended bits)

end Sys2Proof.Machine
end

