-- ==== Sys2Proof/Machine/EntropyCoder.lean ====
section
/-! DEFINITION. The meanings of `PUTB`, `ALIGN`, `FLUSH`, `ECMB` (`44_entropy_coder.md`). -/

namespace Sys2Proof.Machine

/-- `PUTB` (rule R255). No word decodes to a count outside 1..32 (rule R117, log 12). -/
def execPutb (ra : Reg) (n : BitVec 6) (s : State) : Host.Outcome State Fault Refusal :=
  complete s (putBits s (bin n.toNat (s.x ra).toNat))

/-- The padding that aligns a stream of `bitpos` bits to a byte (rules R253, R285). -/
def alignPad (bitpos : Nat) : List Bool := List.replicate ((8 - bitpos % 8) % 8) false

/-- `ALIGN` (rule R253). -/
def execAlign (s : State) : Host.Outcome State Fault Refusal :=
  complete s (putBits s (alignPad s.sink.bitpos.toNat))

/-- `FLUSH` (rule R254): the partial byte is stored and the stream is not padded. -/
def execFlush (s : State) : Host.Outcome State Fault Refusal :=
  complete s
    (if s.sink.bitpos.toNat % 8 = 0 then .ok s
    else do
      require (decide (s.sink.bitpos.toNat / 8 + 1 ≤ s.sink.limit.toNat)) ⟨.outOverflow, 0⟩
      require (decide (sinkLow s < s.memSize)) ⟨.busFault, sinkLow s⟩
      pure { s with mem := s.mem.write (sinkLow s) s.sink.acc })

/-- The two codes of one vector differential (rule R263). -/
def vectorDelta (mv pred : Word) : List Bool :=
  svlc ((unpack mv).x - (unpack pred).x) ++ svlc ((unpack mv).y - (unpack pred).y)

/-- The motion vector differentials of a unit (rule R263). -/
def vectorDeltas (u : UnitRegs) : List Bool :=
  match u.mode with
  | .intra => []
  | .forward => vectorDelta u.mvf u.pmvf
  | .backward => vectorDelta u.mvb u.pmvb
  | .interpolated => vectorDelta u.mvf u.pmvf ++ vectorDelta u.mvb u.pmvb

/-- The vector predictors after a unit is emitted (rule R263). -/
def nextPredictors (u : UnitRegs) : UnitRegs :=
  match u.mode with
  | .intra => { u with pmvf := 0, pmvb := 0 }
  | .forward => { u with pmvf := u.mvf }
  | .backward => { u with pmvb := u.mvb }
  | .interpolated => { u with pmvf := u.mvf, pmvb := u.mvb }

/-- The six coefficient blocks of the unit waiting, coded (rules R256, R264). -/
def levelBits (qc : Vector (Vector Int 64) 6) : List Bool := qc.toList.flatMap fun q => blockBits q.toList

/-- The record of the unit that `TQMB` left (rule R264). -/
def recordBits (s : State) : List Bool :=
  modeTag s.mb.mode ++ scaleDelta s.quant.mbq.toNat s.quant.prevq.toNat ++ vectorDeltas s.mb ++ levelBits s.qc

/-- `ECMB` (rule R264). -/
def execEcmb (s : State) : Host.Outcome State Fault Refusal :=
  complete s do
    require s.frame.uphase (stateFault s)
    let t ← putBits s (recordBits s)
    pure
      { t with
        quant := { s.quant with prevq := s.quant.mbq }
        mb := nextPredictors s.mb
        frame := { s.frame with mbcount := s.frame.mbcount + 1, uphase := false }
        cur := { s.cur with valid := false } }

end Sys2Proof.Machine
end

