-- ==== Sys2Proof/Machine/FrameControl.lean ====
section
/-! DEFINITION. The meanings of `FRMBEG`, `FRMEND`, `FRMNEXT` (`45_frame_control.md`). -/

namespace Sys2Proof.Machine

/-- A dimension that checks 1 and 2 of rule R282 accept. -/
def dimensionOk (d : Nat) : Bool := d != 0 && d % 16 == 0 && decide (d ≤ 4080)

/-- The configuration checks of rule R282, as (number, passes) in their order. -/
def configChecks (s : State) (ftype : FrameType) : List (Nat × Bool) :=
  [(1, dimensionOk (lumaW s)),
   (2, dimensionOk (lumaH s)),
   (3, s.cfg.sradius != 0),
   (4, s.cfg.qinit != 0),
   (5, s.cfg.refWin != 0 && decide (s.cfg.refWin.toNat ≤ 4)),
   (6, s.cfg.qm.toList.all fun m => m != 0),
   (7, ftype == .intra || (refSlot s .forward).valid),
   (8, ftype != .bidirectional || (refSlot s .backward).valid)]

/-- The first check that fails raises ConfigFault with its number (rules R282, R303). -/
def requireChecks : List (Nat × Bool) → Except Trap Unit
  | [] => .ok ()
  | (n, ok) :: rest => if ok then requireChecks rest else .error ⟨.configFault, n⟩

/-- The frame header, 24 bits (rule R284). -/
def headerBits (s : State) (ftype : FrameType) : List Bool :=
  true :: (bin 2 (frameTypeCode ftype).toNat ++ bin 5 s.cfg.qinit.toNat ++ bin 8 (unitsWide s) ++ bin 8 (unitsHigh s))

/-- Per-frame state initialisation (rule R283) and `FS <- 1` (rule R281 step 5). -/
def beginFrame (s : State) (ftype : FrameType) : State :=
  { s with
    frame := { s.frame with fs := .selecting, uphase := false, ftype := ftype, mbcount := 0 }
    quant := { s.quant with qscale := s.cfg.qinit, prevq := s.cfg.qinit, dcpy := 0, dcpcb := 0, dcpcr := 0 }
    mb := { s.mb with pmvf := 0, pmvb := 0 }
    cur := { s.cur with valid := false }
    me := { s.me with memode := .intra } }

/-- `FRMBEG` (rules R281 to R284). -/
def execFrmbeg (ftype : FrameType) (s : State) : Host.Outcome State Fault Refusal :=
  complete s do
    require (s.frame.fs == .awaiting) (stateFault s)
    requireChecks (configChecks s ftype)
    let t ← putBits s (headerBits s ftype)
    pure (beginFrame t ftype)

/-- The end-of-frame marker and its padding (rule R285). -/
def endBits (s : State) : List Bool := endOfFrame ++ alignPad (s.sink.bitpos.toNat + 3)

/-- `FRMEND` (rule R285). -/
def execFrmend (s : State) : Host.Outcome State Fault Refusal :=
  complete s do
    require (s.frame.fs == .encoding && !s.frame.uphase) (stateFault s)
    require (s.frame.mbcount.toNat == unitsWide s * unitsHigh s) ⟨.operandFault, s.frame.mbcount.toNat⟩
    let t ← putBits s (endBits s)
    pure { t with frame := { s.frame with fs := .complete } }

/-- A slot of index `i` with its valid bit cleared when it falls out of the window (rule R286). -/
def windowed (s : State) (i : Nat) (slot : RefSlot) : RefSlot :=
  if s.cfg.refWin.toNat ≤ i then { slot with valid := false } else slot

/-- The reference frame set after the frame is kept (rule R286): a shift register with the new frame in slot 0. -/
def shiftedRefs (s : State) : Vector RefSlot 4 :=
  #v[windowed s 0 ⟨true, s.frame.findex, s.cfg.recY, s.cfg.recCb, s.cfg.recCr⟩,
     windowed s 1 s.cfg.refs[0], windowed s 2 s.cfg.refs[1], windowed s 3 s.cfg.refs[2]]

/-- `FRMNEXT` (rule R286). -/
def execFrmnext (keep : Bool) (s : State) : Host.Outcome State Fault Refusal :=
  complete s do
    require (s.frame.fs == .complete) (stateFault s)
    pure
      { s with
        cfg := { s.cfg with refs := if keep then shiftedRefs s else s.cfg.refs }
        frame := { s.frame with findex := s.frame.findex + 1, fs := .awaiting } }

end Sys2Proof.Machine
end

