-- ==== Sys2Proof/Machine/MotionSearch.lean ====
section
/-! DEFINITION. The motion search and the meanings of `MSRCH` and `MDEC` (`42_motion_search.md`). -/

namespace Sys2Proof.Machine

/-- A candidate vector with its distortion (rule R192). -/
structure Candidate where
  mv : Vec
  dist : Nat
deriving DecidableEq, Repr

/-- `Key` in lexicographic order: distortion, Manhattan magnitude, `mvy`, `mvx`; smaller wins (rule R192). -/
def keyLess (a b : Candidate) : Bool :=
  let ma := a.mv.x.natAbs + a.mv.y.natAbs
  let mb := b.mv.x.natAbs + b.mv.y.natAbs
  decide (a.dist < b.dist) || (a.dist == b.dist &&
    (decide (ma < mb) || (ma == mb &&
      (decide (a.mv.y < b.mv.y) || (a.mv.y == b.mv.y && decide (a.mv.x < b.mv.x))))))

/-- The least candidate by `Key` of a candidate and a list; the order is total (rule R192), so the visiting order does
not matter. -/
def leastKey (first : Candidate) (others : List Candidate) : Candidate :=
  others.foldl (fun best c => if keyLess c best then c else best) first

/-- The integers `-r .. r`. -/
def symmetricRange (r : Nat) : List Int := (List.range (2 * r + 1)).map fun k : Nat => (k : Int) - (r : Int)

/-- The vectors `(a*dx, a*dy)` around `c` with `dx`, `dy` in `-r .. r`. -/
def grid (c : Vec) (a : Int) (r : Nat) : List Vec :=
  (symmetricRange r).flatMap fun dy => (symmetricRange r).map fun dx => ⟨c.x + a * dx, c.y + a * dy⟩

/-- The distortion of a vector (rule R193). -/
def distortion (s : State) (p : Plane) (o : Vec) (met : MetricKind) (mv : Vec) : Nat :=
  blockMetric met (curLuma s) (predBlock s.mem p (displaced o mv) 16)

/-- A vector with its distortion. -/
def measured (s : State) (p : Plane) (o : Vec) (met : MetricKind) (mv : Vec) : Candidate :=
  ⟨mv, distortion s p o met mv⟩

/-- Those of some vectors that are candidates (rule R190), measured. -/
def measuredCandidates (s : State) (p : Plane) (o : Vec) (met : MetricKind) (vs : List Vec) : List Candidate :=
  (vs.filter (isCandidate s o)).map (measured s p o met)

/-- Stage 1 of `Search` (rule R193): all full-sample candidates; the zero vector always is one (rule R190). -/
def searchFull (s : State) (p : Plane) (o : Vec) (met : MetricKind) : Candidate :=
  leastKey (measured s p o met ⟨0, 0⟩)
    (measuredCandidates s p o met (grid ⟨0, 0⟩ 2 (s.cfg.sradius.toNat / 2)))

/-- `Search(base, ox, oy, met)` (rule R193): stage 2 refines the stage 1 winner over its half-sample neighbours. -/
def search (s : State) (p : Plane) (o : Vec) (met : MetricKind) : Candidate :=
  let c := searchFull s p o met
  leastKey c (measuredCandidates s p o met (grid c.mv 1 1))

/-- The distortion of the interpolated prediction of two vectors (rule R194). -/
def interpolatedDistortion (s : State) (o : Vec) (met : MetricKind) (f b : Vec) : Nat :=
  blockMetric met (curLuma s)
    (average (predBlock s.mem (refLuma s .forward) (displaced o f) 16)
      (predBlock s.mem (refLuma s .backward) (displaced o b) 16))

/-- The least of `(df, 1)`, `(db, 2)`, `(di, 3)`: at equal distortion Forward before Backward before Interpolated
(rule R194). -/
def selectMode (df db di : Nat) : Nat × CodingMode :=
  if df ≤ db ∧ df ≤ di then (df, .forward) else if db ≤ di then (db, .backward) else (di, .interpolated)

/-- The detail of `MSRCH`'s ModeFault: `dir + 1` (rule R196). -/
def searchDetail : SearchDir → Nat
  | .forward => 1
  | .backward => 2
  | .bidirectional => 3

/-- Whether the frame type allows the search (rule R196). -/
def searchAllowed (s : State) (dir : SearchDir) : Bool :=
  match s.frame.ftype with
  | .intra => false
  | .predicted => dir == .forward
  | .bidirectional => true

/-- The whole luma planes of the directions used (rule R197). -/
def searchSpans (s : State) (dir : SearchDir) : List Span :=
  let plane (d : Dir) : Span := ⟨(refLuma s d).base, lumaW s * lumaH s⟩
  match dir with
  | .forward => [plane .forward]
  | .backward => [plane .backward]
  | .bidirectional => [plane .forward, plane .backward]

/-- The result registers after a search (rule R196). -/
def searchResult (s : State) (met : MetricKind) (dir : SearchDir) (o : Vec) : SearchRegs :=
  match dir with
  | .forward =>
    let f := search s (refLuma s .forward) o met
    let d : Word := BitVec.ofNat 32 f.dist
    { s.me with mvf := f.mv.pack, distf := d, memode := .forward, mdist := d }
  | .backward =>
    let b := search s (refLuma s .backward) o met
    let d : Word := BitVec.ofNat 32 b.dist
    { s.me with mvb := b.mv.pack, distb := d, memode := .backward, mdist := d }
  | .bidirectional =>
    let f := search s (refLuma s .forward) o met
    let b := search s (refLuma s .backward) o met
    let di := interpolatedDistortion s o met f.mv b.mv
    let sel := selectMode f.dist b.dist di
    { s.me with
      mvf := f.mv.pack, distf := BitVec.ofNat 32 f.dist, mvb := b.mv.pack, distb := BitVec.ofNat 32 b.dist
      disti := BitVec.ofNat 32 di, memode := sel.2, mdist := BitVec.ofNat 32 sel.1 }

/-- `MSRCH` (rules R196, R197). -/
def execMsrch (met : MetricKind) (dir : SearchDir) (rd ra : Reg) (s : State) : Host.Outcome State Fault Refusal :=
  let origin := unpack (s.x ra)
  complete s do
    require (inFrame s && s.cur.valid) (stateFault s)
    require (searchAllowed s dir) ⟨.modeFault, searchDetail dir⟩
    require (unitInside s origin) ⟨.operandFault, (s.x ra).toNat⟩
    requireInMemory s (searchSpans s dir)
    let r := searchResult s met dir origin
    pure ({ s with me := r }.setX rd r.mdist)

/-- The mode decision (rule R200): Intra on equality; the biased sum is an unbounded integer. -/
def decideMode (s : State) : CodingMode :=
  if s.frame.ftype = .intra ∨ s.me.memode = .intra then .intra
  else if s.me.actcost.toNat ≤ s.me.mdist.toNat + s.me.intraBias.toNat then .intra
  else s.me.memode

/-- `MDEC` (rule R200). -/
def execMdec (rd : Reg) (s : State) : Host.Outcome State Fault Refusal :=
  complete s do
    require (inFrame s) (stateFault s)
    let mode : CodingMode := decideMode s
    pure ({ s with flags := { s.flags with z := mode == CodingMode.intra } }.setX rd ((modeCode mode).setWidth 32))

end Sys2Proof.Machine
end

