-- ==== Sys2Proof/Machine/Sequencer.lean ====
section
/-! DEFINITION. The meanings of the sequencer commands (`40_sequencer.md`). -/

namespace Sys2Proof.Machine

/-- `NOP` (rule R141). -/
def execNop (s : State) : Host.Outcome State Fault Refusal := complete s (.ok s)

/-- `HALT` (rule R142): the engine stops with `CP` after the command; a pending stop request is dropped. -/
def execHalt (s : State) : Host.Outcome State Fault Refusal :=
  .next ({ s.advance with run := { s.run with busy := false, halted := true, stopReq := false } }.raiseIrq irqDone)

/-- `BR` (rule R143). -/
def execBr (cond : Cond) (off22 : BitVec 22) (s : State) : Host.Outcome State Fault Refusal :=
  .next { s with cp := if condHolds s.flags cond then branchTarget s off22 else nextCp s }

/-- `ADDI` (rule R144). -/
def execAddi (rd ra : Reg) (imm16 : BitVec 16) (s : State) : Host.Outcome State Fault Refusal :=
  complete s (.ok (s.setX rd (s.x ra + sext16 imm16)))

/-- `ORI` (rule R145). -/
def execOri (rd ra : Reg) (imm16 : BitVec 16) (s : State) : Host.Outcome State Fault Refusal :=
  complete s (.ok (s.setX rd (s.x ra ||| imm16.setWidth 32)))

/-- `LUI` (rule R146). -/
def execLui (rd : Reg) (imm16 : BitVec 16) (s : State) : Host.Outcome State Fault Refusal :=
  complete s (.ok (s.setX rd (imm16 ++ 0#16)))

/-- `ADD` (rule R147). -/
def execAdd (rd ra rb : Reg) (s : State) : Host.Outcome State Fault Refusal :=
  complete s (.ok (s.setX rd (s.x ra + s.x rb)))

/-- `SUB` (rule R148). -/
def execSub (rd ra rb : Reg) (s : State) : Host.Outcome State Fault Refusal :=
  complete s (.ok (s.setX rd (s.x ra - s.x rb)))

/-- `CMP` (rule R149). -/
def execCmp (ra rb : Reg) (s : State) : Host.Outcome State Fault Refusal :=
  complete s (.ok { s with flags := compareFlags s.flags (s.x ra) (s.x rb) })

/-- The two checks of a word access, in their order (rules R152, R153): alignment, then existence. BusFault carries
the effective address itself (log 9). -/
def checkWordAccess (s : State) (ea : Word) : Except Trap Unit := do
  require (ea.toNat % 4 == 0) ⟨.misalignedAccess, ea.toNat⟩
  require (decide (ea.toNat + 4 ≤ s.memSize)) ⟨.busFault, ea.toNat⟩

/-- `LDW` (rule R152). -/
def execLdw (rd ra : Reg) (imm16 : BitVec 16) (s : State) : Host.Outcome State Fault Refusal :=
  complete s do
    checkWordAccess s (effectiveAddress s ra imm16)
    pure (s.setX rd (s.mem.readWord (effectiveAddress s ra imm16).toNat))

/-- `STW` (rule R153). -/
def execStw (rs ra : Reg) (imm16 : BitVec 16) (s : State) : Host.Outcome State Fault Refusal :=
  complete s do
    checkWordAccess s (effectiveAddress s ra imm16)
    pure { s with mem := s.mem.writeWord (effectiveAddress s ra imm16).toNat (s.x rs) }

/-- `RDCSR` (rule R154). -/
def execRdcsr (rd : Reg) (csr : BitVec 16) (s : State) : Host.Outcome State Fault Refusal :=
  complete s
    (match csrOfNumber csr.toNat with
    | none => .error ⟨.illegalCsr, csr.toNat⟩
    | some c => .ok (s.setX rd (csrRead s c)))

/-- Whether a command may write a register of this class at all (rules R25, R155). -/
def engineMayWrite : CsrClass → Bool
  | .rw | .rwf => true
  | .ro | .hc | .hi => false

/-- `WRCSR` (rule R155). -/
def execWrcsr (csr : BitVec 16) (ra : Reg) (s : State) : Host.Outcome State Fault Refusal :=
  complete s
    (match csrOfNumber csr.toNat with
    | none => .error ⟨.illegalCsr, csr.toNat⟩
    | some c => do
      require (engineMayWrite (csrClass c)) ⟨.illegalCsr, csr.toNat⟩
      require (csrClass c != .rwf || s.frame.fs == .awaiting) (stateFault s)
      pure (csrStore s c (s.x ra)))

end Sys2Proof.Machine
end

