-- ==== Sys2Proof/Machine/Transform.lean ====
section
/-! DEFINITION. The two 8×8 block transforms (`43_transform_quant.md` rules R212, R216) and the zigzag scan (rule
R222). A block is a list of 64 integers in raster order (rule R11). -/

namespace Sys2Proof.Machine

/-- The DCT matrix `C[k][n]` (rule R212): the table, not the cosine formula, is normative. -/
def dctMatrix : List (List Int) :=
  [[1448,  1448,  1448,  1448,  1448,  1448,  1448,  1448],
   [2009,  1703,  1138,   400,  -400, -1138, -1703, -2009],
   [1892,   784,  -784, -1892, -1892,  -784,   784,  1892],
   [1703,  -400, -2009, -1138,  1138,  2009,   400, -1703],
   [1448, -1448, -1448,  1448,  1448, -1448, -1448,  1448],
   [1138, -2009,   400,  1703, -1703,  -400,  2009, -1138],
   [ 784, -1892,  1892,  -784,  -784,  1892, -1892,   784],
   [ 400, -1138,  1703, -2009,  2009, -1703,  1138,  -400]]

/-- The Walsh-Hadamard matrix `Hm[k][n]`, rows in order of sequency (rule R216). -/
def whtMatrix : List (List Int) :=
  [[1,  1,  1,  1,  1,  1,  1,  1],
   [1,  1,  1,  1, -1, -1, -1, -1],
   [1,  1, -1, -1, -1, -1,  1,  1],
   [1,  1, -1, -1,  1,  1, -1, -1],
   [1, -1, -1,  1,  1, -1, -1,  1],
   [1, -1, -1,  1, -1,  1,  1, -1],
   [1, -1,  1, -1, -1,  1, -1,  1],
   [1, -1,  1, -1,  1, -1,  1, -1]]

/-- The inner product of two rows. -/
def dot (a b : List Int) : Int := (List.zipWith (· * ·) a b).sum

/-- The columns of an 8×8 matrix as rows. -/
def transposed (m : List (List Int)) : List (List Int) :=
  (List.range 8).map fun j => m.map fun row => row.getD j 0

/-- The eight rows of a block. -/
def blockRows (x : List Int) : List (List Int) := (List.range 8).map fun i => (x.drop (8 * i)).take 8

/-- The exact double sums `sum over i, j of M[u][i] * X[i][j] * M[v][j]`, in raster order of `(u, v)` (rules R212,
R216); the inner sum over `j` is formed once for each `v` and `i`. -/
def doubleSums (m : List (List Int)) (x : List Int) : List Int :=
  let cols := m.map fun mv => (blockRows x).map fun row => dot row mv
  m.flatMap fun mu => cols.map fun col => dot mu col

/-- `Fwd(X)`: `xform = false` the DCT, `true` the WHT; rounded once (rules R46, R212, R216). -/
def forwardTransform (xform : Bool) (x : List Int) : List Int :=
  if xform then (doubleSums whtMatrix x).map fun t => rdiv t 8
  else (doubleSums dctMatrix x).map fun t => rdiv t 16777216

/-- `Inv(R)`: the same with the transposed matrix (rules R212, R216). -/
def inverseTransform (xform : Bool) (r : List Int) : List Int :=
  if xform then (doubleSums (transposed whtMatrix) r).map fun t => rdiv t 8
  else (doubleSums (transposed dctMatrix) r).map fun t => rdiv t 16777216

/-- `ZZ[n]`: the raster index at scan index `n` (rule R222). -/
def zigzag : List Nat :=
  [ 0,  1,  8, 16,  9,  2,  3, 10,
   17, 24, 32, 25, 18, 11,  4,  5,
   12, 19, 26, 33, 40, 48, 41, 34,
   27, 20, 13,  6,  7, 14, 21, 28,
   35, 42, 49, 56, 57, 50, 43, 36,
   29, 22, 15, 23, 30, 37, 44, 51,
   58, 59, 52, 45, 38, 31, 39, 46,
   53, 60, 61, 54, 47, 55, 62, 63]

/-- A raster block put in scan order (rules R222, R233 step 11). -/
def scanOrder (e : List Int) : List Int := zigzag.map fun p => e.getD p 0

end Sys2Proof.Machine
end

