-- ==== Sys2Proof/Machine/Quant.lean ====
section
/-! DEFINITION. Quantization, DC prediction, overflow escalation and dequantization of one unit
(`43_transform_quant.md` rules R220, R223, R225 to R227, R230). -/

namespace Sys2Proof.Machine

/-- `LMAX` of rule R223. -/
def levelMax : Nat := 255

/-- The three plane types of a unit's blocks, `plane(k)` of rule R12. -/
inductive Component where
  | y | cb | cr
deriving DecidableEq, Repr

/-- The three DC predictors as register values (rule R48). -/
structure DcPredictors where
  y : Word
  cb : Word
  cr : Word
deriving DecidableEq, Repr

/-- The predictor of a plane type. -/
def DcPredictors.get (d : DcPredictors) : Component → Word
  | .y => d.y
  | .cb => d.cb
  | .cr => d.cr

/-- One predictor replaced. -/
def DcPredictors.set (d : DcPredictors) (c : Component) (v : Word) : DcPredictors :=
  match c with
  | .y => { d with y := v }
  | .cb => { d with cb := v }
  | .cr => { d with cr := v }

/-- `L[p] = rdiv(16 * F[p], QM[p] * q)` (rule R220). -/
def quantize (qm : List Nat) (q : Nat) (f : List Int) : List Int :=
  List.zipWith (fun c m => rdiv (16 * c) (m * q)) f qm

/-- `R[p] = rdiv(Leff[p] * QM[p] * q, 16)` (rule R230). -/
def dequantize (qm : List Nat) (q : Nat) (leff : List Int) : List Int :=
  List.zipWith (fun l m => rdiv (l * ((m * q : Nat) : Int)) 16) leff qm

/-- A block with `v` added to its DC coefficient (raster index 0). -/
def addDc (v : Int) : List Int → List Int
  | [] => []
  | c :: rest => (c + v) :: rest

/-- A value overflows when its magnitude is above `LMAX` (rule R223). -/
def overflows (e : Int) : Bool := decide (levelMax < e.natAbs)

/-- A value clamped to the representable range (rules R225, R226). -/
def clampLevel (e : Int) : Int := clamp e (-(levelMax : Int)) levelMax

/-- One block of one pass: coded values, effective levels, the predictor afterwards, whether a value overflowed. -/
structure BlockQuant where
  coded : List Int
  effective : List Int
  pred : Word
  overflow : Bool
deriving DecidableEq, Repr

/-- `P` of rule R227: the predictor expressed as a level at scale `q`; 0 where DC prediction does not apply. -/
def dcLevel (intra : Bool) (qm : List Nat) (q : Nat) (pred : Word) : Int :=
  if intra then rdiv pred.toInt (qm.headD 0 * q) else 0

/-- One block of one pass (rules R225, R227). The predictor register is written modulo 2^32 (rule R227, log 8). -/
def quantBlock (intra : Bool) (qm : List Nat) (q : Nat) (clampIt : Bool) (f : List Int) (pred : Word) : BlockQuant :=
  let p := dcLevel intra qm q pred
  let raw := addDc (-p) (quantize qm q f)
  let coded := if clampIt then raw.map clampLevel else raw
  let effective := addDc p coded
  { coded := coded
    effective := effective
    pred := if intra then BitVec.ofInt 32 (effective.headD 0 * ((qm.headD 0 * q : Nat) : Int)) else pred
    overflow := raw.any overflows }

/-- One pass over the blocks of a unit: coded values and effective levels of each block, the predictors afterwards,
whether any value overflowed. -/
structure PassResult where
  coded : List (List Int)
  effective : List (List Int)
  preds : DcPredictors
  overflow : Bool
deriving DecidableEq, Repr

/-- `Pass(q, clampit)` over blocks in the unit's order, each with its plane type (rule R225). -/
def quantPass (intra : Bool) (qm : List Nat) (q : Nat) (clampIt : Bool) :
    List (Component × List Int) → DcPredictors → PassResult
  | [], d => ⟨[], [], d, false⟩
  | (c, f) :: rest, d =>
    let b := quantBlock intra qm q clampIt f (d.get c)
    let r := quantPass intra qm q clampIt rest (d.set c b.pred)
    ⟨b.coded :: r.coded, b.effective :: r.effective, r.preds, b.overflow || r.overflow⟩

/-- What the escalation loop ends with: the scale, the pass it ended with, whether it clamped. -/
structure UnitQuant where
  scale : Nat
  result : PassResult
  exhausted : Bool
deriving DecidableEq, Repr

/-- `QMAX` of rule R5. -/
def scaleMax : Nat := 31

/-- The escalation loop of rule R226, by the number `n` of steps left to `QMAX`: the scale tried is `31 - n`. -/
def escalate (intra : Bool) (qm : List Nat) (blocks : List (Component × List Int)) (d : DcPredictors) :
    Nat → UnitQuant
  | 0 =>
    let r := quantPass intra qm scaleMax false blocks d
    if r.overflow then ⟨scaleMax, quantPass intra qm scaleMax true blocks d, true⟩ else ⟨scaleMax, r, false⟩
  | n + 1 =>
    let q := scaleMax - (n + 1)
    let r := quantPass intra qm q false blocks d
    if r.overflow then escalate intra qm blocks d n else ⟨q, r, false⟩

/-- A reconstructed sample (rule R230): prediction plus inverse transform, clamped to 0..255. -/
def reconstructSample (p x : Int) : Byte := BitVec.ofInt 8 (clamp (p + x) 0 255)

/-- `REC[k]` in raster order (rule R230). -/
def reconstruct (xform : Bool) (qm : List Nat) (q : Nat) (pred leff : List Int) : List Byte :=
  List.zipWith reconstructSample pred (inverseTransform xform (dequantize qm q leff))

end Sys2Proof.Machine
end

