-- ==== Sys2Proof/Machine/TransformQuant.lean ====
section
/-! DEFINITION. The meaning of `TQMB` (`43_transform_quant.md` rules R210, R213, R230, R231, R233). -/

namespace Sys2Proof.Machine

/-- The samples of a unit: 16×16 luma and two 8×8 chroma blocks, each in raster order. -/
structure UnitSamples where
  y : List Nat
  cb : List Nat
  cr : List Nat
deriving DecidableEq, Repr

/-- The corner, in half-samples of the chroma plane, of the chroma block at the unit `pos` displaced by `mv` (rule
R210): the luma vector halved toward zero. -/
def chromaDisplaced (pos mv : Vec) : Vec := ⟨pos.x + tz2 mv.x, pos.y + tz2 mv.y⟩

/-- `Pred(dir, mv)` (rule R210). -/
def predictFrom (s : State) (dir : Dir) (pos mv : Vec) : UnitSamples :=
  let p := refPlanes s dir
  { y := predBlock s.mem p.y (displaced pos mv) 16
    cb := predBlock s.mem p.cb (chromaDisplaced pos mv) 8
    cr := predBlock s.mem p.cr (chromaDisplaced pos mv) 8 }

/-- The forward vector as a pair. -/
def forwardVector (s : State) : Vec := unpack s.me.mvf

/-- The backward vector as a pair. -/
def backwardVector (s : State) : Vec := unpack s.me.mvb

/-- The prediction of a unit (rule R210). -/
def predictUnit (s : State) (mode : CodingMode) (pos : Vec) : UnitSamples :=
  match mode with
  | .intra => ⟨List.replicate 256 0, List.replicate 64 0, List.replicate 64 0⟩
  | .forward => predictFrom s .forward pos (forwardVector s)
  | .backward => predictFrom s .backward pos (backwardVector s)
  | .interpolated =>
    let f := predictFrom s .forward pos (forwardVector s)
    let b := predictFrom s .backward pos (backwardVector s)
    ⟨average f.y b.y, average f.cb b.cb, average f.cr b.cr⟩

/-- The spans `Pred(dir, mv)` reads (rule R233 step 7). -/
def predictSpans (s : State) (dir : Dir) (pos mv : Vec) : List Span :=
  let p := refPlanes s dir
  footprint p.y (displaced pos mv) 16 ++ footprint p.cb (chromaDisplaced pos mv) 8
    ++ footprint p.cr (chromaDisplaced pos mv) 8

/-- Whether a mode uses a direction (rules R210, R233). -/
def modeUses (mode : CodingMode) (dir : Dir) : Bool :=
  match mode, dir with
  | .interpolated, _ => true
  | .forward, .forward => true
  | .backward, .backward => true
  | _, _ => false

/-- The spans the prediction of a unit reads. -/
def modeSpans (s : State) (mode : CodingMode) (pos : Vec) : List Span :=
  (if modeUses mode .forward then predictSpans s .forward pos (forwardVector s) else [])
    ++ (if modeUses mode .backward then predictSpans s .backward pos (backwardVector s) else [])

/-- The samples of the current unit (rule R62). -/
def currentSamples (s : State) : UnitSamples :=
  ⟨curLuma s, s.cur.cb.toList.map BitVec.toNat, s.cur.cr.toList.map BitVec.toNat⟩

/-- The 8×8 block of a 16×16 raster whose corner is at row `r0`, column `c0`. -/
def subBlock (l : List Nat) (r0 c0 : Nat) : List Nat :=
  (List.range 8).flatMap fun i => (l.drop (16 * (r0 + i) + c0)).take 8

/-- The six blocks of a unit in their one fixed order (rules R12, R213), as integers. -/
def sixBlocks (u : UnitSamples) : List (List Int) :=
  [subBlock u.y 0 0, subBlock u.y 0 8, subBlock u.y 8 0, subBlock u.y 8 8, u.cb, u.cr].map (List.map Int.ofNat)

/-- `plane(k)` for `k = 0 .. 5` (rule R12). -/
def blockComponents : List Component := [.y, .y, .y, .y, .cb, .cr]

/-- The residual blocks `X[k]` (rule R213). -/
def residualBlocks (source pred : UnitSamples) : List (List Int) :=
  List.zipWith (List.zipWith (· - ·)) (sixBlocks source) (sixBlocks pred)

/-- The matrix `QM` in raster order (rule R54). -/
def quantMatrix (s : State) : List Nat := s.cfg.qm.toList.map BitVec.toNat

/-- The coefficient blocks `F[k]` with their plane types (rule R233 step 8). -/
def unitCoefficients (s : State) (pred : UnitSamples) : List (Component × List Int) :=
  blockComponents.zip ((residualBlocks (currentSamples s) pred).map (forwardTransform s.cfg.xform))

/-- The three DC predictor registers (rule R48). -/
def dcPredictors (s : State) : DcPredictors := ⟨s.quant.dcpy, s.quant.dcpcb, s.quant.dcpcr⟩

/-- Steps 8 and 9 of rule R233: the escalation loop over the unit. -/
def quantizeUnit (s : State) (mode : CodingMode) (pred : UnitSamples) : UnitQuant :=
  escalate (mode == .intra) (quantMatrix s) (unitCoefficients s pred) (dcPredictors s)
    (scaleMax - s.quant.qscale.toNat)

/-- The reconstructed blocks `REC[k]` (rule R230). -/
def reconstructUnit (s : State) (pred : UnitSamples) (u : UnitQuant) : List (List Byte) :=
  List.zipWith (reconstruct s.cfg.xform (quantMatrix s) u.scale) (sixBlocks pred) u.result.effective

/-- An 8×8 block stored in a plane with its corner at `(x, y)` (rules R96, R231). -/
def storeBlock (m : Memory) (p : Plane) (x y : Nat) (block : List Byte) : Memory :=
  (List.range 8).foldl (fun acc i => acc.writeRange (p.address x (y + i)) ((block.drop (8 * i)).take 8)) m

/-- The place of each block of a unit at `(x, y)`: plane and corner (rules R213, R231). -/
def blockPlaces (p : PlaneSet) (x y : Nat) : List (Plane × Nat × Nat) :=
  [(p.y, x, y), (p.y, x + 8, y), (p.y, x, y + 8), (p.y, x + 8, y + 8), (p.cb, x / 2, y / 2), (p.cr, x / 2, y / 2)]

/-- The reconstructed unit stored, block by block in the unit's order (rule R231). -/
def storeUnit (m : Memory) (p : PlaneSet) (x y : Nat) (blocks : List (List Byte)) : Memory :=
  ((blockPlaces p x y).zip blocks).foldl (fun acc pb => storeBlock acc pb.1.1 pb.1.2.1 pb.1.2.2 pb.2) m

/-- The position of the next unit in raster order, packed (rules R51, R233 step 4). -/
def nextUnitPos (s : State) : Word :=
  pack ((16 * (s.frame.mbcount.toNat % unitsWide s) : Nat) : Int) ((16 * (s.frame.mbcount.toNat / unitsWide s) : Nat) : Int)

/-- Whether the frame type allows a coding mode (rule R233 step 2). -/
def modeAllowed (s : State) (mode : CodingMode) : Bool :=
  match s.frame.ftype, mode with
  | .intra, .intra => true
  | .intra, _ => false
  | .predicted, .intra => true
  | .predicted, .forward => true
  | .predicted, _ => false
  | .bidirectional, _ => true

/-- `QC` from the coded values of the six blocks (rule R233 step 11). -/
def levelStore (coded : List (List Int)) : Vector (Vector Int 64) 6 :=
  toVector 6 (Vector.replicate 64 0) (coded.map fun e => toVector 64 0 (scanOrder e))

/-- Steps 10 to 15 of rule R233. -/
def commitUnit (s : State) (mode : CodingMode) (pos : Vec) (pred : UnitSamples) (u : UnitQuant) : State :=
  let q0 := s.quant.qscale.toNat
  let intra := mode == .intra
  let t : State :=
    { s with
      mem := storeUnit s.mem (recPlanes s) pos.x.toNat pos.y.toNat (reconstructUnit s pred u)
      qc := levelStore u.result.coded
      quant :=
        { qscale := BitVec.ofNat 5 u.scale
          mbq := BitVec.ofNat 5 u.scale
          prevq := s.quant.prevq
          exhcnt := if u.exhausted then s.quant.exhcnt + 1 else s.quant.exhcnt
          esccnt := s.quant.esccnt + BitVec.ofNat 32 (u.scale - q0)
          dcpy := if intra then u.result.preds.y else s.quant.dcpy
          dcpcb := if intra then u.result.preds.cb else s.quant.dcpcb
          dcpcr := if intra then u.result.preds.cr else s.quant.dcpcr }
      mb :=
        { s.mb with
          mode := mode
          mvf := if modeUses mode .forward then s.me.mvf else s.mb.mvf
          mvb := if modeUses mode .backward then s.me.mvb else s.mb.mvb }
      flags := { s.flags with esc := decide (q0 < u.scale), exh := u.exhausted }
      frame := { s.frame with uphase := true, fs := .encoding } }
  if u.exhausted then t.raiseIrq irqExh else t

/-- The checks of `TQMB` before the memory check, in the order of rule R233 steps 1 to 6. -/
def checkTqmb (s : State) (mode : CodingMode) : Except Trap Unit := do
  let pos := unpack s.cur.pos
  require (inFrame s && !s.frame.uphase && s.cur.valid) (stateFault s)
  require (modeAllowed s mode) ⟨.modeFault, (modeCode mode).toNat⟩
  require (s.quant.qscale != 0) ⟨.configFault, 4⟩
  require (s.cur.pos == nextUnitPos s) ⟨.operandFault, s.cur.pos.toNat⟩
  require (!modeUses mode .forward || isCandidate s pos (forwardVector s)) ⟨.operandFault, s.me.mvf.toNat⟩
  require (!modeUses mode .backward || isCandidate s pos (backwardVector s)) ⟨.operandFault, s.me.mvb.toNat⟩

/-- The spans `TQMB` reads and writes (rule R233 step 7). -/
def tqmbSpans (s : State) (mode : CodingMode) : List Span :=
  let pos := unpack s.cur.pos
  modeSpans s mode pos ++ unitSpans (recPlanes s) pos.x.toNat pos.y.toNat

/-- The state a `TQMB` that passed its checks leaves, `CP` apart (rule R233 steps 8 to 15). -/
def tqmbResult (s : State) (mode : CodingMode) : State :=
  let pos := unpack s.cur.pos
  let pred := predictUnit s mode pos
  commitUnit s mode pos pred (quantizeUnit s mode pred)

/-- `TQMB` (rule R233). -/
def execTqmb (mode : CodingMode) (s : State) : Host.Outcome State Fault Refusal :=
  complete s do
    checkTqmb s mode
    requireInMemory s (tqmbSpans s mode)
    pure (tqmbResult s mode)

end Sys2Proof.Machine
end

