-- ==== Sys2Proof/Machine/Dispatch.lean ====
section
/-! DEFINITION. One arm per command: its meaning. -/

namespace Sys2Proof.Machine

/-- The execution of a decoded command (rule R140 steps 5 and 6): a completed command and a faulting one are both next
states. -/
def exec (i : Instr) (s : State) : Host.Outcome State Fault Refusal :=
  match i with
  | .halt => Sys2Proof.Machine.execHalt s
  | .br cond off22 => Sys2Proof.Machine.execBr cond off22 s
  | .nop => Sys2Proof.Machine.execNop s
  | .addi rd ra imm16 => Sys2Proof.Machine.execAddi rd ra imm16 s
  | .ori rd ra imm16 => Sys2Proof.Machine.execOri rd ra imm16 s
  | .lui rd imm16 => Sys2Proof.Machine.execLui rd imm16 s
  | .add rd ra rb => Sys2Proof.Machine.execAdd rd ra rb s
  | .sub rd ra rb => Sys2Proof.Machine.execSub rd ra rb s
  | .cmp ra rb => Sys2Proof.Machine.execCmp ra rb s
  | .ldw rd ra imm16 => Sys2Proof.Machine.execLdw rd ra imm16 s
  | .stw rs ra imm16 => Sys2Proof.Machine.execStw rs ra imm16 s
  | .rdcsr rd csr => Sys2Proof.Machine.execRdcsr rd csr s
  | .wrcsr csr ra => Sys2Proof.Machine.execWrcsr csr ra s
  | .ldcur ra => Sys2Proof.Machine.execLdcur ra s
  | .metric met dir rd ra rb => Sys2Proof.Machine.execMetric met dir rd ra rb s
  | .act met rd => Sys2Proof.Machine.execAct met rd s
  | .msrch met dir rd ra => Sys2Proof.Machine.execMsrch met dir rd ra s
  | .mdec rd => Sys2Proof.Machine.execMdec rd s
  | .tqmb mode => Sys2Proof.Machine.execTqmb mode s
  | .ecmb => Sys2Proof.Machine.execEcmb s
  | .putb ra n => Sys2Proof.Machine.execPutb ra n s
  | .align => Sys2Proof.Machine.execAlign s
  | .flush => Sys2Proof.Machine.execFlush s
  | .frmbeg ftype => Sys2Proof.Machine.execFrmbeg ftype s
  | .frmend => Sys2Proof.Machine.execFrmend s
  | .frmnext keep => Sys2Proof.Machine.execFrmnext keep s

end Sys2Proof.Machine
end

