-- ==== Sys2Proof/Machine/Fetch.lean ====
section
/-! DEFINITION. Command fetch (`20_memory.md` rules R86, R93; `40_sequencer.md` rule R140 steps 1 to 4). -/

namespace Sys2Proof.Machine

/-- Whether the engine can fetch at `CP` (rule R86). -/
def fetchable (s : State) : Bool := s.cp.toNat % 4 == 0 && decide (s.cp.toNat + 4 ≤ s.memSize)

/-- The four bytes at `CP`, the lowest address first (rules R81a, R110). -/
def fetchBytes (s : State) : List Byte :=
  [s.mem.read s.cp.toNat, s.mem.read (s.cp.toNat + 1), s.mem.read (s.cp.toNat + 2), s.mem.read (s.cp.toNat + 3)]

/-- The command at `CP`, or the fault of its fetch or of its decoding: MisalignedFetch, BusFault, IllegalCommand, in
that order (rules R140, R303). -/
def fetch (s : State) : Except Trap Instr := do
  require (s.cp.toNat % 4 == 0) ⟨.misalignedFetch, s.cp.toNat⟩
  require (decide (s.cp.toNat + 4 ≤ s.memSize)) ⟨.busFault, s.cp.toNat⟩
  match decode (fetchBytes s) with
  | .ok (i, _) => pure i
  | .error _ => .error ⟨.illegalCommand, (s.mem.readWord s.cp.toNat).toNat⟩

/-- Where `State.withFetchWord` places a command: `CP` itself wherever the engine can fetch there, else address 0. -/
def fetchPlace (s : State) : Word :=
  if s.cp.toNat % 4 = 0 ∧ s.cp.toNat + 4 ≤ s.memSize then s.cp else 0

end Sys2Proof.Machine
end

