-- ==== Sys2Proof/Machine/Host.lean ====
section
/-! DEFINITION. The host agent's steps (`10_state.md` rules R25, R32, R35; `60_exceptions.md` rule R321;
`70_reset_and_hazards.md` rule R340). -/

namespace Sys2Proof.Machine

/-- Reset (rules R70, R340): every piece of the MEE's own state at its reset value. Shared memory is not touched, and
`MEMSIZE` and the host agent are not the MEE's. -/
def State.resetEngine (s : State) : State :=
  { State.reset with mem := s.mem, memSize := s.memSize, host := s.host }

/-- A refused host write: ignored, and the sticky bit set (rule R321). -/
def State.hostError (s : State) : State := { s with run := { s.run with hwErr := true } }

/-! ### The actions of `CTRL` (rule R32), each on a state that the earlier bits of the write have acted on -/

/-- Bit 3, `REFCLR`: all four slots invalid; accepted when `BUSY = 0` and `FS = 0`. -/
def State.ctrlRefClear (s : State) : State :=
  if !s.run.busy && s.frame.fs == .awaiting then
    { s with cfg := { s.cfg with refs := s.cfg.refs.map fun slot => { slot with valid := false } } }
  else s.hostError

/-- Bit 4, `FRMABORT`: back to AwaitingFrame, nothing emitted; accepted when `BUSY = 0`. -/
def State.ctrlFrameAbort (s : State) : State :=
  if !s.run.busy then
    { s with frame := { s.frame with fs := .awaiting, uphase := false }, cur := { s.cur with valid := false } }
  else s.hostError

/-- Bit 1, `STOP`: a pending stop while `BUSY = 1`, ignored without error otherwise. -/
def State.ctrlStop (s : State) : State :=
  if s.run.busy then { s with run := { s.run with stopReq := true } } else s

/-- Bit 0, `GO`: accepted when `BUSY = 0` and `FAULT = 0`. -/
def State.ctrlGo (s : State) : State :=
  if !s.run.busy && !s.run.fault then s.startEngine else s.hostError

/-- An action taken when its bit is set. -/
def whenBit (w : Word) (i : Nat) (act : State → State) (s : State) : State := if w.getLsbD i then act s else s

/-- A host write of `CTRL` (rule R32): SRESET alone, else CLRFAULT, REFCLR, FRMABORT, STOP, GO in that order. -/
def writeCtrl (s : State) (w : Word) : State :=
  if w.getLsbD 31 then s.resetEngine
  else
    whenBit w 0 State.ctrlGo (whenBit w 1 State.ctrlStop (whenBit w 4 State.ctrlFrameAbort
      (whenBit w 3 State.ctrlRefClear (whenBit w 2 State.clearFault s))))

/-- A host write of a register of class HC (rules R32, R35): `IRQST` is cleared where the written bit is 1. -/
def writeHostControl (s : State) (c : Csr) (w : Word) : State :=
  match c with
  | .ctrl => writeCtrl s w
  | .irqen => { s with irq := { s.irq with enable := w.setWidth 4 } }
  | .irqst => { s with irq := { s.irq with status := s.irq.status &&& ~~~(w.setWidth 4) } }
  | _ => s

/-- A host write of register `n` (rules R25, R321). -/
def hostWriteReg (s : State) (n : Nat) (w : Word) : State :=
  match csrOfNumber n with
  | none => s.hostError
  | some c =>
    match csrClass c with
    | .ro => s.hostError
    | .rw | .hi => if s.run.busy then s.hostError else csrStore s c w
    | .rwf => if !s.run.busy && s.frame.fs == .awaiting then csrStore s c w else s.hostError
    | .hc => writeHostControl s c w

/-- What a host read of register `n` returns; 0 where it does not exist (rule R25). -/
def hostReadReg (s : State) (n : Nat) : Word :=
  match csrOfNumber n with
  | none => 0
  | some c => csrRead s c

/-- The register number of a host bus address, an aligned word of the register window at `MMIOBASE` (rules R6, R25);
other accesses are not offered (U4, log 6). -/
def windowRegister (address : Nat) : Option Nat :=
  if Config.mmioBase ≤ address ∧ (address - Config.mmioBase) % 4 = 0 ∧ (address - Config.mmioBase) / 4 < 0x1000 then
    some ((address - Config.mmioBase) / 4)
  else none

/-- The host agent after a read. -/
def State.hostSees (s : State) (w : Word) : State := { s with host := { s.host with lastRead := w } }

/-- One host step (rule R13). -/
def hostStep (a : HostAccess) (s : State) : Host.Outcome State Fault Refusal :=
  match a with
  | .readReg n => .next (s.hostSees (hostReadReg s n))
  | .writeReg n w => .next (hostWriteReg s n w)
  | .readByte address =>
    if address < s.memSize then .next (s.hostSees ((s.mem.read address).setWidth 32))
    else .fault (.hostAddressAbsent address)
  | .writeByte address v =>
    if address < s.memSize then .next { s with mem := s.mem.write address v }
    else .fault (.hostAddressAbsent address)
  | .resetInput => .next s.resetEngine

end Sys2Proof.Machine
end

