-- ==== Sys2Proof/Machine/Step.lean ====
section
/-! DEFINITION. One step of the machine: a turn of the host or of the engine (`00_scope.md` rule R13, `40_sequencer.md`
rule R140). -/

namespace Sys2Proof.Machine

/-- One engine step while `BUSY = 1`: a pending stop is honoured instead of a fetch (rules R303, R312); else one whole
command, or the fault of its fetch or decoding (rule R140). -/
def engineStep (s : State) : Host.Outcome State Fault Refusal :=
  if s.run.stopReq then .next s.takeStop
  else
    match fetch s with
    | .error t => .next (s.takeFault t)
    | .ok i => exec i s

/-- The state with the first turn of the host script taken off. -/
def State.popTurn (s : State) : State := { s with host := { s.host with script := s.host.script.tail } }

/-- One step of the machine. The host script says whose turn it is, and with nothing left in it every turn is the
engine's (log 4). An idle engine passes its turn (rules R24, R320); when it is idle and no host step is pending, no
agent has a step (log 5). One command is one step whatever work it does (rule R355, log 14). -/
def step (s : State) : Host.Outcome State Fault Refusal :=
  match s.host.script with
  | .host a :: _ => hostStep a s.popTurn
  | .engine :: _ => if s.run.busy then engineStep s.popTurn else .next s.popTurn
  | [] => if s.run.busy then engineStep s else .fault .noAgentSteps

/-- The state with an instruction stored where the next step fetches and the engine running: the load of a program, the
host's write of `CP` and its `CTRL.GO` in one (rule R342, log 10). -/
def State.withFetchWord (s : State) (nbits w : Nat) : State :=
  let t : State := { s with memSize := max s.memSize 4 }
  { t with
    cp := fetchPlace t
    mem := t.mem.writeRange (fetchPlace t).toNat (tableBytes nbits w)
    run := { t.run with busy := true, halted := false, fault := false, stopped := false, stopReq := false }
    host := { t.host with script := [] } }

end Sys2Proof.Machine
end

