-- ==== Sys2Proof/Safety.lean ====
section
/-! DEFINITION. The vocabulary of the statements: encodings field by field, fault entry and frames as the rules write
them, what well-behaved states are (the invariants of the spec), and the reading side of the bitstream (rules R250,
R260, R266), which the engine itself does not have. No meaning uses this file. -/

namespace Sys2Proof.Machine

/-! ### Encodings, field by field (rule R111) -/

/-- Every word of format R with these fields is the command `i`. -/
def encodedR (op : BitVec 6) (rd ra rb : BitVec 4) (m : BitVec 14) (i : Instr) : Prop :=
  ∀ w : Word, opField w = op → rdField w = rd → raField w = ra → rbField w = rb → mField w = m → decodeWord w = .ok i

/-- Every word of format I with these fields, and 0 in bits 17:16, is the command `i`. -/
def encodedI (op : BitVec 6) (rd ra : BitVec 4) (imm : BitVec 16) (i : Instr) : Prop :=
  ∀ w : Word, opField w = op → rdField w = rd → raField w = ra → zField w = 0 → immField w = imm → decodeWord w = .ok i

/-- Every word of format B with these fields is the command `i`. -/
def encodedB (op : BitVec 6) (cond : BitVec 4) (off : BitVec 22) (i : Instr) : Prop :=
  ∀ w : Word, opField w = op → rdField w = cond → offField w = off → decodeWord w = .ok i

/-- A row of the opcode map: `match` and `mask` (rule R114). -/
structure OpcodeRow where
  fixed : Word
  mask : Word
deriving DecidableEq, Repr

/-- The row of a command, in the words of rule R114. -/
def opcodeRow : Instr → OpcodeRow
  | .halt => ⟨0x04000000, 0xFFFFFFFF⟩
  | .br _ _ => ⟨0x08000000, 0xFC000000⟩
  | .nop => ⟨0x0C000000, 0xFFFFFFFF⟩
  | .addi _ _ _ => ⟨0x10000000, 0xFC030000⟩
  | .ori _ _ _ => ⟨0x14000000, 0xFC030000⟩
  | .lui _ _ => ⟨0x18000000, 0xFC3F0000⟩
  | .add _ _ _ => ⟨0x20000000, 0xFC003FFF⟩
  | .sub _ _ _ => ⟨0x24000000, 0xFC003FFF⟩
  | .cmp _ _ => ⟨0x28000000, 0xFFC03FFF⟩
  | .ldw _ _ _ => ⟨0x30000000, 0xFC030000⟩
  | .stw _ _ _ => ⟨0x34000000, 0xFC030000⟩
  | .rdcsr _ _ => ⟨0x38000000, 0xFC3F0000⟩
  | .wrcsr _ _ => ⟨0x3C000000, 0xFFC30000⟩
  | .ldcur _ => ⟨0x40000000, 0xFFC3FFFF⟩
  | .metric _ _ _ _ _ => ⟨0x44000000, 0xFC003FFA⟩
  | .act _ _ => ⟨0x48000000, 0xFC3FFFFB⟩
  | .msrch _ _ _ _ => ⟨0x50000000, 0xFC03FFF8⟩
  | .mdec _ => ⟨0x54000000, 0xFC3FFFFF⟩
  | .tqmb _ => ⟨0x60000000, 0xFFFFFFFC⟩
  | .ecmb => ⟨0x70000000, 0xFFFFFFFF⟩
  | .putb _ _ => ⟨0x74000000, 0xFFC3FFC0⟩
  | .align => ⟨0x78000000, 0xFFFFFFFF⟩
  | .flush => ⟨0x7C000000, 0xFFFFFFFF⟩
  | .frmbeg _ => ⟨0x80000000, 0xFFFFFFFC⟩
  | .frmend => ⟨0x84000000, 0xFFFFFFFF⟩
  | .frmnext _ => ⟨0x88000000, 0xFFFFFFFE⟩

/-- The value checks of rule R117 on a word. -/
def valuesLegal (w : Word) : Prop :=
  (opField w = 0x02 → (rdField w).toNat ≤ 10) ∧
  (opField w = 0x14 → (w.extractLsb' 0 2).toNat ≠ 3) ∧
  (opField w = 0x20 → (w.extractLsb' 0 2).toNat ≠ 3) ∧
  (opField w = 0x1D → 1 ≤ (w.extractLsb' 0 6).toNat ∧ (w.extractLsb' 0 6).toNat ≤ 32)

/-! ### Fault entry and frames, as the rules write them -/

/-- The state after taking a fault with code `code` and detail `v`, field by field (rule R304). -/
def faulted (s : State) (code v : Nat) : State :=
  { s with
    cause := { cause := BitVec.ofNat 8 code, faddr := s.cp, finfo := BitVec.ofNat 32 v }
    run := { s.run with fault := true, busy := false, stopReq := false }
    irq := { s.irq with status := s.irq.status ||| 2#4 } }

/-- `FS + 4*UPHASE + 8*CURVALID`, the detail of StateFault (rules R176, R301). -/
def stateDetail (s : State) : Nat :=
  (match s.frame.fs with
   | .awaiting => 0
   | .selecting => 1
   | .encoding => 2
   | .complete => 3)
    + 4 * s.frame.uphase.toNat + 8 * s.cur.valid.toNat

/-- The next turn of `s` is the engine's, and `t` is `s` with that turn taken off the host script: every turn is the
engine's where the script is empty (log 4). -/
def engineTurn (s t : State) : Prop :=
  (s.host.script = [] ∧ t = s) ∨
  (∃ turns, s.host.script = .engine :: turns ∧ t = { s with host := { s.host with script := turns } })

/-- Every byte of memory reads the same in both states. -/
def sameMemory (s t : State) : Prop := ∀ a : Nat, t.mem.read a = s.mem.read a

/-- `t` is `s` after a command that wrote `v mod 2^32` to `rd` (nothing, where `rd` is `R0`), moved `CP` to the next
command and changed nothing else (rules R8, R21, R140). -/
def wroteRegister (s : State) (rd : Reg) (v : Int) (t : State) : Prop :=
  t.x rd = (if rd = 0 then 0 else BitVec.ofInt 32 v) ∧ (∀ r : Reg, r ≠ rd → t.x r = s.x r) ∧
  t.cp.toNat = (s.cp.toNat + 4) % 2 ^ 32 ∧ sameMemory s t ∧ t = { s with regs := t.regs, cp := t.cp }

/-- `a` is the lowest address of those `touched` that does not exist (rules R84, R174). -/
def lowestMissing (memSize : Nat) (touched : Nat → Prop) (a : Nat) : Prop :=
  touched a ∧ memSize ≤ a ∧ ∀ b, touched b → memSize ≤ b → a ≤ b

/-- `InPlane` as rule R172 writes it. -/
def insidePlane (px2 py2 : Int) (n w h : Nat) : Prop :=
  0 ≤ px2 ∧ 0 ≤ py2 ∧ px2 / 2 + n + px2 % 2 ≤ w ∧ py2 / 2 + n + py2 % 2 ≤ h

/-- `Cand` as rule R190 writes it. -/
def legalCandidate (s : State) (ox oy mvx mvy : Int) : Prop :=
  mvx.natAbs ≤ s.cfg.sradius.toNat ∧ mvy.natAbs ≤ s.cfg.sradius.toNat ∧
  insidePlane (2 * ox + mvx) (2 * oy + mvy) 16 (lumaW s) (lumaH s)

/-- The addresses of a block of `cols` by `rows` samples at `(x, y)` of a plane (rule R10). -/
def blockAddress (base width x y cols rows : Nat) (a : Nat) : Prop :=
  ∃ r c, r < rows ∧ c < cols ∧ a = base + (y + r) * width + x + c

/-- The addresses `PredBlock` reads (rule R174). -/
def footprintAddress (base width : Nat) (px2 py2 : Int) (n : Nat) (a : Nat) : Prop :=
  blockAddress base width (px2 / 2).toNat (py2 / 2).toNat (n + (px2 % 2).toNat) (n + (py2 % 2).toNat) a

/-- The addresses of the unit at `(x, y)` in the three planes of a frame (rules R175, R231). -/
def unitAddress (s : State) (y8 cb8 cr8 : Word) (x y : Nat) (a : Nat) : Prop :=
  blockAddress y8.toNat (lumaW s) x y 16 16 a ∨ blockAddress cb8.toNat (chromaW s) (x / 2) (y / 2) 8 8 a ∨
  blockAddress cr8.toNat (chromaW s) (x / 2) (y / 2) 8 8 a

/-- The base address of the reference luma plane of a direction (rule R177). -/
def refBase (s : State) : Dir → Nat
  | .forward => (s.cfg.refs[s.cfg.fwdSel]).y.toNat
  | .backward => (s.cfg.refs[s.cfg.bwdSel]).y.toNat

/-- Whether a search uses a direction (rule R196). -/
def searchUses (dir : SearchDir) (d : Dir) : Prop :=
  match dir, d with
  | .forward, .forward => True
  | .backward, .backward => True
  | .bidirectional, _ => True
  | .forward, .backward => False
  | .backward, .forward => False

/-- The addresses `TQMB` reads and writes (rules R210, R231, R233 step 7): the unit's area in the reconstructed planes,
and, for each direction the mode uses, the footprints of the displaced luma and chroma blocks. -/
def tqmbTouches (s : State) (mode : CodingMode) (a : Nat) : Prop :=
  let x := lo16s s.cur.pos
  let y := hi16s s.cur.pos
  unitAddress s s.cfg.recY s.cfg.recCb s.cfg.recCr x.toNat y.toNat a ∨
  ∃ (slot : RefSlot) (mv : Word),
    (((mode = .forward ∨ mode = .interpolated) ∧ slot = s.cfg.refs[s.cfg.fwdSel] ∧ mv = s.me.mvf) ∨
      ((mode = .backward ∨ mode = .interpolated) ∧ slot = s.cfg.refs[s.cfg.bwdSel] ∧ mv = s.me.mvb)) ∧
    (footprintAddress slot.y.toNat (lumaW s) (2 * x + lo16s mv) (2 * y + hi16s mv) 16 a ∨
      footprintAddress slot.cb.toNat (chromaW s) (x + tz2 (lo16s mv)) (y + tz2 (hi16s mv)) 8 a ∨
      footprintAddress slot.cr.toNat (chromaW s) (x + tz2 (lo16s mv)) (y + tz2 (hi16s mv)) 8 a)

/-- A `TQMB` of this mode passes every check of rule R233, steps 1 to 7. -/
def tqmbPasses (s : State) (mode : CodingMode) : Prop :=
  let x := lo16s s.cur.pos
  let y := hi16s s.cur.pos
  ((s.frame.fs = .selecting ∨ s.frame.fs = .encoding) ∧ s.frame.uphase = false ∧ s.cur.valid = true) ∧
  (mode = .intra ∨ s.frame.ftype = .bidirectional ∨ (s.frame.ftype = .predicted ∧ mode = .forward)) ∧
  s.quant.qscale ≠ 0 ∧
  s.cur.pos = pack (16 * (s.frame.mbcount.toNat % unitsWide s) : Nat) (16 * (s.frame.mbcount.toNat / unitsWide s) : Nat) ∧
  (mode = .forward ∨ mode = .interpolated → legalCandidate s x y (lo16s s.me.mvf) (hi16s s.me.mvf)) ∧
  (mode = .backward ∨ mode = .interpolated → legalCandidate s x y (lo16s s.me.mvb) (hi16s s.me.mvb)) ∧
  ∀ a, tqmbTouches s mode a → a < s.memSize

/-- The address `TQMB` stores sample `m` of the unit to, `m` counting block by block and row by row: block `m / 64`, row
`m % 64 / 8`, column `m % 8` (rules R12, R213, R231). -/
def samplePlace (s : State) (m : Nat) : Nat :=
  let k := m / 64
  let x := (lo16s s.cur.pos).toNat
  let y := (hi16s s.cur.pos).toNat
  if k < 4 then s.cfg.recY.toNat + (y + 8 * (k / 2) + m % 64 / 8) * lumaW s + (x + 8 * (k % 2) + m % 8)
  else (if k = 4 then s.cfg.recCb else s.cfg.recCr).toNat + (y / 2 + m % 64 / 8) * chromaW s + (x / 2 + m % 8)

/-- The reconstructed sample `m` of the unit (rule R230): the prediction plus the inverse transform of the dequantized
effective levels of its block at the final scale, clamped to 0..255. -/
def reconstructedSample (s : State) (mode : CodingMode) (m : Nat) : Int :=
  let k := m / 64
  let pred := predictUnit s mode ⟨lo16s s.cur.pos, hi16s s.cur.pos⟩
  let u := quantizeUnit s mode pred
  let predicted : Nat :=
    if k < 4 then pred.y.getD (16 * (8 * (k / 2) + m % 64 / 8) + (8 * (k % 2) + m % 8)) 0
    else (if k = 4 then pred.cb else pred.cr).getD (m % 64) 0
  let levels := u.result.effective.getD k []
  let coefficients := (List.range 64).map fun p =>
    rdiv (levels.getD p 0 * (((s.cfg.qm[p]?).getD 0).toNat : Int) * u.scale) 16
  max 0 (min (predicted + (inverseTransform s.cfg.xform coefficients).getD (m % 64) 0) 255)

/-- The DC coefficient of block `k` of the loaded unit, coded Intra (rule R228). -/
def intraDc (s : State) (k : Nat) : Int :=
  ((unitCoefficients s (predictUnit s .intra ⟨lo16s s.cur.pos, hi16s s.cur.pos⟩)).getD k (.y, [])).2.getD 0 0

/-- The lexicographic order of `Key`: `a` before `b` (rule R192). -/
def keyBefore (a b : Candidate) : Prop :=
  let ma := a.mv.x.natAbs + a.mv.y.natAbs
  let mb := b.mv.x.natAbs + b.mv.y.natAbs
  a.dist < b.dist ∨ (a.dist = b.dist ∧
    (ma < mb ∨ (ma = mb ∧ (a.mv.y < b.mv.y ∨ (a.mv.y = b.mv.y ∧ a.mv.x < b.mv.x)))))

/-- The `n` by `n` block of a function of row and column, in raster order (rule R11). -/
def rasterBlock {α : Type} (n : Nat) (f : Nat → Nat → α) : List α :=
  (List.range (n * n)).map fun k => f (k / n) (k % n)

/-- An entry of a matrix given as rows. -/
def entry (m : List (List Int)) (u i : Nat) : Int := (m.getD u []).getD i 0

/-! ### The bit sink -/

/-- The number of bytes a stream of `bits` bits needs: `ceil(bits / 8)` (rule R251). -/
def streamBytes (bits : Nat) : Nat := bits / 8 + (if bits % 8 = 0 then 0 else 1)

/-- `n` more bits pass both checks of `PutBits` (rule R251); the empty string checks nothing. -/
def sinkAccepts (s : State) (n : Nat) : Prop :=
  n = 0 ∨ (s.sink.bitpos.toNat + n < 2 ^ 32 ∧ streamBytes (s.sink.bitpos.toNat + n) ≤ s.sink.limit.toNat ∧
    s.sink.base.toNat + streamBytes (s.sink.bitpos.toNat + n) ≤ s.memSize)

/-- The sink and memory of `t` are those of `s` with a string appended (rule R251): `BITPOS` grows by its length, and
no byte outside those it completes is written. -/
def emitted (s : State) (bits : List Bool) (t : State) : Prop :=
  t.sink = (s.appended bits).sink ∧ t.mem = (s.appended bits).mem ∧
  t.sink.bitpos.toNat = s.sink.bitpos.toNat + bits.length ∧
  ∀ a : Nat, (a < s.sink.base.toNat + s.sink.bitpos.toNat / 8 ∨
    s.sink.base.toNat + (s.sink.bitpos.toNat + bits.length) / 8 ≤ a) → t.mem.read a = s.mem.read a

/-- The two faults of `PutBits` (rules R251, R252), for a command whose other checks pass and whose string is `bits`. -/
def sinkFaults (i : Instr) (s : State) (bits : List Bool) : Prop :=
  bits ≠ [] →
  ((2 ^ 32 ≤ s.sink.bitpos.toNat + bits.length ∨
      s.sink.limit.toNat < streamBytes (s.sink.bitpos.toNat + bits.length)) →
    exec i s = .next (faulted s 9 bits.length)) ∧
  (s.sink.bitpos.toNat + bits.length < 2 ^ 32 →
    streamBytes (s.sink.bitpos.toNat + bits.length) ≤ s.sink.limit.toNat →
    s.memSize < s.sink.base.toNat + streamBytes (s.sink.bitpos.toNat + bits.length) →
    exec i s = .next (faulted s 3 (max (s.sink.base.toNat + s.sink.bitpos.toNat / 8) s.memSize)))

/-- Bit `t` of the stream (rules R81c, R250): in memory when its byte is complete, else in `ACC`. -/
def streamBit (s : State) (t : Nat) : Bool :=
  (if t / 8 < s.sink.bitpos.toNat / 8 then s.mem.read (s.sink.base.toNat + t / 8) else s.sink.acc).getLsbD (7 - t % 8)

/-! ### Invariants -/

/-- Memory is in canonical form and lists no address that does not exist (rules R6, R84). -/
def memoryOk (s : State) : Prop := s.mem.wf = true ∧ ∀ c ∈ s.mem, c.1 < s.memSize

/-- The run state is one of those rule R24 allows; a stop is pending only while the engine runs. -/
def runOk (s : State) : Prop :=
  ¬(s.run.busy = true ∧ s.run.halted = true) ∧ ¬(s.run.busy = true ∧ s.run.stopped = true) ∧
  ¬(s.run.halted = true ∧ s.run.stopped = true) ∧ (s.run.fault = true → s.run.busy = false) ∧
  (s.run.stopReq = true → s.run.busy = true)

/-- The unused low bits of `ACC` are 0 (rules R53, R250). -/
def sinkOk (s : State) : Prop := ∀ k : Nat, k < 8 - s.sink.bitpos.toNat % 8 → s.sink.acc.getLsbD k = false

/-- Every stored level is representable (rules R63, R223). -/
def levelsOk (s : State) : Prop := ∀ (k : Fin 6) (n : Fin 64), (s.qc[k][n]).natAbs ≤ 255

/-- A frame dimension that `FRMBEG` accepts (rule R282). -/
def legalDimension (d : Nat) : Prop := d % 16 = 0 ∧ 16 ≤ d ∧ d ≤ 4080

/-- What rule R287 promises while a frame is open. -/
def configOk (s : State) : Prop :=
  s.frame.fs ≠ .awaiting →
  legalDimension (lumaW s) ∧ legalDimension (lumaH s) ∧ 1 ≤ s.cfg.sradius.toNat ∧ 1 ≤ s.cfg.qinit.toNat ∧
  (1 ≤ s.cfg.refWin.toNat ∧ s.cfg.refWin.toNat ≤ 4) ∧ (∀ p : Fin 64, 1 ≤ (s.cfg.qm[p]).toNat) ∧
  (s.frame.ftype ≠ .intra → (s.cfg.refs[s.cfg.fwdSel]).valid = true) ∧
  (s.frame.ftype = .bidirectional → (s.cfg.refs[s.cfg.bwdSel]).valid = true)

/-- `FS` in {1, 2}: the states in which units are searched and coded (rules R176, R280). -/
def coding (s : State) : Prop := s.frame.fs = .selecting ∨ s.frame.fs = .encoding

/-- The unit phase, the unit counter and the unit's position (rules R52, R175, R264). -/
def unitsOk (s : State) : Prop :=
  (s.frame.uphase = true → s.frame.fs = .encoding ∧ s.cur.valid = true) ∧
  (s.frame.fs ≠ .awaiting → s.frame.mbcount.toNat ≤ unitsWide s * unitsHigh s) ∧
  (s.frame.uphase = true → s.frame.mbcount.toNat < unitsWide s * unitsHigh s) ∧
  (s.frame.fs = .complete → s.frame.mbcount.toNat = unitsWide s * unitsHigh s) ∧
  (coding s → s.cur.valid = true →
    0 ≤ lo16s s.cur.pos ∧ 0 ≤ hi16s s.cur.pos ∧ lo16s s.cur.pos % 16 = 0 ∧ hi16s s.cur.pos % 16 = 0 ∧
    lo16s s.cur.pos + 16 ≤ lumaW s ∧ hi16s s.cur.pos + 16 ≤ lumaH s)

/-- Both components of a packed vector are within the search radius (rule R191). -/
def withinRadius (s : State) (mv : Word) : Prop :=
  (lo16s mv).natAbs ≤ s.cfg.sradius.toNat ∧ (hi16s mv).natAbs ≤ s.cfg.sradius.toNat

/-- The vectors the entropy coder meets are within the search radius (rules R263, R267). -/
def vectorsOk (s : State) : Prop :=
  (coding s → withinRadius s s.mb.pmvf ∧ withinRadius s s.mb.pmvb) ∧
  (s.frame.uphase = true →
    (s.mb.mode = .forward ∨ s.mb.mode = .interpolated → withinRadius s s.mb.mvf) ∧
    (s.mb.mode = .backward ∨ s.mb.mode = .interpolated → withinRadius s s.mb.mvb))

/-- What holds of an open frame at every command boundary. -/
def frameOk (s : State) : Prop := configOk s ∧ unitsOk s ∧ vectorsOk s

/-! ### Registers -/

/-- The implemented bits of the registers a write can store to (column "bits" of rule R26). -/
def implementedBits : Csr → Word
  | .flags => 0x0000001F
  | .frmw | .frmh => 0x00000FFF
  | .findex => 0x0000FFFF
  | .fwdSel | .bwdSel => 0x00000003
  | .refCtl _ => 0x8000FFFF
  | .sradius => 0x000003FF
  | .refWin => 0x00000007
  | .qinit | .qscale => 0x0000001F
  | .tqcfg => 0x00000001
  | .qm _ => 0x000000FF
  | _ => 0xFFFFFFFF

/-- The number of a frame type (rule R37). -/
def frameTypeNumber : FrameType → Nat
  | .intra => 0
  | .predicted => 1
  | .bidirectional => 2

/-- The number of a coding mode (rules R49, R51). -/
def modeNumber : CodingMode → Nat
  | .intra => 0
  | .forward => 1
  | .backward => 2
  | .interpolated => 3

/-- `STATUS` as the sum of its listed bits (rule R33). -/
def statusValue (s : State) : Nat :=
  s.run.busy.toNat + 2 * s.run.halted.toNat + 4 * s.run.fault.toNat + 8 * s.run.stopped.toNat +
    16 * stateDetail s + 256 * s.run.hwErr.toNat

/-- `FLAGS` as the sum of its listed bits (rule R23). -/
def flagsValue (s : State) : Nat :=
  s.flags.z.toNat + 2 * s.flags.lt.toNat + 4 * s.flags.ltu.toNat + 8 * s.flags.esc.toNat + 16 * s.flags.exh.toNat

/-- A row of the register table of rule R26: number, register, access class, implemented bits, value after reset, and
what it holds in a state. -/
structure RegisterRow where
  number : Nat
  register : Csr
  access : CsrClass
  bits : Word
  reset : Word
  holds : State → Nat

/-- Rows 0x000 to 0x009 of rule R26: identification, run control, faults, interrupts, command pointer, flags. -/
def controlRows : List RegisterRow :=
  [⟨0x000, .id, .ro, 0xFFFFFFFF, 0x4D450601, fun _ => 0x4D450601⟩,
   ⟨0x001, .ctrl, .hc, 0x8000001F, 0, fun _ => 0⟩,
   ⟨0x002, .status, .ro, 0x000001FF, 0, fun s => statusValue s⟩,
   ⟨0x003, .cause, .ro, 0x000000FF, 0, fun s => s.cause.cause.toNat⟩,
   ⟨0x004, .faddr, .ro, 0xFFFFFFFF, 0, fun s => s.cause.faddr.toNat⟩,
   ⟨0x005, .finfo, .ro, 0xFFFFFFFF, 0, fun s => s.cause.finfo.toNat⟩,
   ⟨0x006, .irqen, .hc, 0x0000000F, 0, fun s => s.irq.enable.toNat⟩,
   ⟨0x007, .irqst, .hc, 0x0000000F, 0, fun s => s.irq.status.toNat⟩,
   ⟨0x008, .cp, .hi, 0xFFFFFFFF, 0, fun s => s.cp.toNat⟩,
   ⟨0x009, .flags, .rw, 0x0000001F, 0, fun s => flagsValue s⟩]

/-- Rows 0x010 to 0x01B of rule R26: the frame, its planes, the selected slots. -/
def frameRows : List RegisterRow :=
  [⟨0x010, .frmw, .rwf, 0x00000FFF, 0, fun s => s.cfg.frmw.toNat⟩,
   ⟨0x011, .frmh, .rwf, 0x00000FFF, 0, fun s => s.cfg.frmh.toNat⟩,
   ⟨0x012, .ftype, .ro, 0x00000003, 0, fun s => frameTypeNumber s.frame.ftype⟩,
   ⟨0x013, .findex, .rw, 0x0000FFFF, 0, fun s => s.frame.findex.toNat⟩,
   ⟨0x014, .curY, .rwf, 0xFFFFFFFF, 0, fun s => s.cfg.curY.toNat⟩,
   ⟨0x015, .curCb, .rwf, 0xFFFFFFFF, 0, fun s => s.cfg.curCb.toNat⟩,
   ⟨0x016, .curCr, .rwf, 0xFFFFFFFF, 0, fun s => s.cfg.curCr.toNat⟩,
   ⟨0x017, .recY, .rwf, 0xFFFFFFFF, 0, fun s => s.cfg.recY.toNat⟩,
   ⟨0x018, .recCb, .rwf, 0xFFFFFFFF, 0, fun s => s.cfg.recCb.toNat⟩,
   ⟨0x019, .recCr, .rwf, 0xFFFFFFFF, 0, fun s => s.cfg.recCr.toNat⟩,
   ⟨0x01A, .fwdSel, .rwf, 0x00000003, 0, fun s => s.cfg.fwdSel.val⟩,
   ⟨0x01B, .bwdSel, .rwf, 0x00000003, 0, fun s => s.cfg.bwdSel.val⟩]

/-- Rows 0x030 to 0x03C of rule R26: the search and its results. -/
def searchRows : List RegisterRow :=
  [⟨0x030, .sradius, .rwf, 0x000003FF, 0, fun s => s.cfg.sradius.toNat⟩,
   ⟨0x031, .intraBias, .rw, 0xFFFFFFFF, 0, fun s => s.me.intraBias.toNat⟩,
   ⟨0x032, .refWin, .rwf, 0x00000007, 0, fun s => s.cfg.refWin.toNat⟩,
   ⟨0x034, .mvf, .rw, 0xFFFFFFFF, 0, fun s => s.me.mvf.toNat⟩,
   ⟨0x035, .mvb, .rw, 0xFFFFFFFF, 0, fun s => s.me.mvb.toNat⟩,
   ⟨0x036, .distf, .ro, 0xFFFFFFFF, 0, fun s => s.me.distf.toNat⟩,
   ⟨0x037, .distb, .ro, 0xFFFFFFFF, 0, fun s => s.me.distb.toNat⟩,
   ⟨0x038, .disti, .ro, 0xFFFFFFFF, 0, fun s => s.me.disti.toNat⟩,
   ⟨0x039, .memode, .ro, 0x00000003, 0, fun s => modeNumber s.me.memode⟩,
   ⟨0x03A, .mdist, .ro, 0xFFFFFFFF, 0, fun s => s.me.mdist.toNat⟩,
   ⟨0x03B, .actcost, .ro, 0xFFFFFFFF, 0, fun s => s.me.actcost.toNat⟩,
   ⟨0x03C, .curpos, .ro, 0xFFFFFFFF, 0, fun s => s.cur.pos.toNat⟩]

/-- Rows 0x040 to 0x04A of rule R26: the quantizer and the DC predictors. -/
def quantRows : List RegisterRow :=
  [⟨0x040, .qinit, .rwf, 0x0000001F, 0, fun s => s.cfg.qinit.toNat⟩,
   ⟨0x041, .qscale, .rw, 0x0000001F, 0, fun s => s.quant.qscale.toNat⟩,
   ⟨0x042, .tqcfg, .rwf, 0x00000001, 0, fun s => s.cfg.xform.toNat⟩,
   ⟨0x043, .mbq, .ro, 0x0000001F, 0, fun s => s.quant.mbq.toNat⟩,
   ⟨0x044, .prevq, .ro, 0x0000001F, 0, fun s => s.quant.prevq.toNat⟩,
   ⟨0x045, .exhcnt, .rw, 0xFFFFFFFF, 0, fun s => s.quant.exhcnt.toNat⟩,
   ⟨0x046, .esccnt, .rw, 0xFFFFFFFF, 0, fun s => s.quant.esccnt.toNat⟩,
   ⟨0x048, .dcpy, .rw, 0xFFFFFFFF, 0, fun s => s.quant.dcpy.toNat⟩,
   ⟨0x049, .dcpcb, .rw, 0xFFFFFFFF, 0, fun s => s.quant.dcpcb.toNat⟩,
   ⟨0x04A, .dcpcr, .rw, 0xFFFFFFFF, 0, fun s => s.quant.dcpcr.toNat⟩]

/-- Rows 0x04C to 0x05B of rule R26: the unit and the bit sink. -/
def unitRows : List RegisterRow :=
  [⟨0x04C, .pmvf, .ro, 0xFFFFFFFF, 0, fun s => s.mb.pmvf.toNat⟩,
   ⟨0x04D, .pmvb, .ro, 0xFFFFFFFF, 0, fun s => s.mb.pmvb.toNat⟩,
   ⟨0x04E, .mbmode, .ro, 0x00000003, 0, fun s => modeNumber s.mb.mode⟩,
   ⟨0x04F, .mbcount, .ro, 0x0000FFFF, 0, fun s => s.frame.mbcount.toNat⟩,
   ⟨0x050, .mbmvf, .ro, 0xFFFFFFFF, 0, fun s => s.mb.mvf.toNat⟩,
   ⟨0x051, .mbmvb, .ro, 0xFFFFFFFF, 0, fun s => s.mb.mvb.toNat⟩,
   ⟨0x058, .outbase, .rwf, 0xFFFFFFFF, 0, fun s => s.sink.base.toNat⟩,
   ⟨0x059, .outlimit, .rwf, 0xFFFFFFFF, 0, fun s => s.sink.limit.toNat⟩,
   ⟨0x05A, .bitpos, .rwf, 0xFFFFFFFF, 0, fun s => s.sink.bitpos.toNat⟩,
   ⟨0x05B, .acc, .ro, 0x000000FF, 0, fun s => s.sink.acc.toNat⟩]

/-- The registers of rule R26 outside the slots, the matrix and the level window. -/
def registerRows : List RegisterRow := controlRows ++ frameRows ++ searchRows ++ quantRows ++ unitRows

/-- The numbers below 0x1000 that rule R26 says do not exist. -/
def missingNumber (n : Nat) : Prop :=
  (0x00A ≤ n ∧ n ≤ 0x00F) ∨ (0x01C ≤ n ∧ n ≤ 0x01F) ∨ n = 0x033 ∨ (0x03D ≤ n ∧ n ≤ 0x03F) ∨ n = 0x047 ∨
  n = 0x04B ∨ (0x052 ≤ n ∧ n ≤ 0x057) ∨ (0x05C ≤ n ∧ n ≤ 0x07F) ∨ (0x0C0 ≤ n ∧ n ≤ 0x0FF) ∨ (0x280 ≤ n ∧ n ≤ 0xFFF)

/-! ### The reading side of the bitstream -/

/-- A bit string as a number, most significant bit first. -/
def bitsValue (l : List Bool) : Nat := l.foldl (fun acc b => 2 * acc + b.toNat) 0

/-- What a code word of rule R257 stands for. -/
inductive Symbol where
  | eob
  | esc
  | pair (run magnitude : Nat)
deriving DecidableEq, Repr

/-- The code word a bit string begins with, and the bits after it (rule R266); none where it begins with no code word,
which the encoder cannot produce (log 15). -/
def readSymbol (b : List Bool) : Option (Symbol × List Bool) :=
  if eobCode.isPrefixOf b then some (.eob, b.drop eobCode.length)
  else if escCode.isPrefixOf b then some (.esc, b.drop escCode.length)
  else
    match pairTable.find? fun r => r.code.isPrefixOf b with
    | some r => some (.pair r.run r.magnitude, b.drop r.code.length)
    | none => none

/-- The decoding loop of rule R266, with fuel for its turns: levels so far, position, bits left. DESIGN CHOICE (log 15):
on strings the encoder cannot produce, which row U7 puts outside the spec, a level past position 63 is dropped, escape
levels 0 and -256 are taken as they stand, an escape cut short is read from the bits that are left, and a
block of more than 64 pairs is none. -/
def decodeBlockFrom : Nat → List Int → Nat → List Bool → Option (List Int × List Bool)
  | 0, _, _, _ => none
  | fuel + 1, q, n, b =>
    match readSymbol b with
    | none => none
    | some (.eob, rest) => some (q, rest)
    | some (.esc, rest) =>
      let run := bitsValue (rest.take 6)
      let v := (BitVec.ofNat 9 (bitsValue ((rest.drop 6).take 9))).toInt
      decodeBlockFrom fuel (q.set (n + run) v) (n + run + 1) (rest.drop 15)
    | some (.pair run magnitude, sign :: rest) =>
      decodeBlockFrom fuel (q.set (n + run) (if sign then -(magnitude : Int) else magnitude)) (n + run + 1) rest
    | some (.pair _ _, []) => none

/-- The symmetric decoder of one block (rule R266): its 64 levels and the bits after it. At most 64 pairs and the
end-of-block marker are read. -/
def decodeBlock (b : List Bool) : Option (List Int × List Bool) := decodeBlockFrom 65 (List.replicate 64 0) 0 b

/-- The integer a bit string begins with in the code of rule R260, and the bits after it; none where the string is too
short for its code (log 15). -/
def decodeSvlc (b : List Bool) : Option (Int × List Bool) :=
  let zeros := (b.takeWhile fun c => !c).length
  if b.length < 2 * zeros + 1 then none
  else
    let k := bitsValue ((b.drop zeros).take (zeros + 1)) - 1
    some (if k % 2 = 1 then ((k + 1) / 2 : Nat) else -((k / 2 : Nat) : Int), b.drop (2 * zeros + 1))

end Sys2Proof.Machine
end

