-- ==== Sys2Proof/Certificates/Slice0/Obligations.lean ====
section
/-! DEFINITION. The statements for the provers. Each docstring names the rules of spec/ it rests on. -/

section Slice0

open Sys2Proof Sys2Proof.Machine

/-! ### Encoding -/

/-- Decoding the bytes of an encoded command gives the command back, whatever follows it (rules R110, R111, R113 to
R115). -/
def Obligations.DecodeEncode : Prop :=
  ∀ (i : Instr) (rest : List Byte), i.wellFormed = true →
    decodeWord (encode i) = .ok i ∧ decode (bytesOfWord (encode i) ++ rest) = .ok (i, rest)

/-- Decoding is strict: a word that decodes is the one word of its command, and the command is legal (rules R116,
R117). -/
def Obligations.DecodeStrict : Prop :=
  ∀ (w : Word) (i : Instr), decodeWord w = .ok i → encode i = w ∧ i.wellFormed = true

/-- The opcode map of rule R114: a word decodes exactly when it matches a row under the row's mask and passes the value
checks of rule R117, and it decodes to a command of that row. -/
def Obligations.OpcodeMap : Prop :=
  (∀ (w : Word) (i : Instr), decodeWord w = .ok i → w &&& (opcodeRow i).mask = (opcodeRow i).fixed) ∧
  (∀ w : Word, (∃ i : Instr, decodeWord w = .ok i) ↔
    (∃ i : Instr, w &&& (opcodeRow i).mask = (opcodeRow i).fixed) ∧ valuesLegal w)

/-- Some of the words worked out in rule R119, with the three illegal words rule R116 and `92_eei_decisions.md` name. -/
def Obligations.WorkedWords : Prop :=
  decodeWord 0x0C000000 = .ok .nop ∧ decodeWord 0x04000000 = .ok .halt ∧
  decodeWord 0x083FFFFF = .ok (.br .al 0x3FFFFF) ∧ decodeWord 0x08800003 = .ok (.br .ne 3) ∧
  decodeWord 0x1040FFFF = .ok (.addi 1 0 0xFFFF) ∧ decodeWord 0x20C48000 = .ok (.add 3 1 2) ∧
  decodeWord 0x3514FFFC = .ok (.stw 4 5 0xFFFC) ∧ decodeWord 0x3C1C0041 = .ok (.wrcsr 0x41 7) ∧
  decodeWord 0x4484C005 = .ok (.metric .ssd .backward 2 1 3) ∧
  decodeWord 0x50840002 = .ok (.msrch .sad .bidirectional 2 1) ∧ decodeWord 0x60000001 = .ok (.tqmb .forward) ∧
  decodeWord 0x74040018 = .ok (.putb 1 24) ∧ decodeWord 0x80000001 = .ok (.frmbeg .predicted) ∧
  decodeWord 0x88000001 = .ok (.frmnext true) ∧
  decodeWord 0x00000000 = .error .unassignedOpcode ∧ decodeWord 0xFFFFFFFF = .error .unassignedOpcode

/-! ### The execution cycle -/

/-- Whose turn it is, is written in the host script, or the engine's where the script is empty (log 4). A turn of the
running engine is one whole command: where the four bytes at `CP` decode to `i`, the step is `exec i` (rule R140). A
turn of the host is one host access (rule R13), whether the engine runs or not. -/
def Obligations.StepRunsDecoded : Prop :=
  (∀ (s t : State) (i : Instr) (rest : List Byte), engineTurn s t →
    s.run.busy = true → s.run.stopReq = false → s.cp.toNat % 4 = 0 → s.cp.toNat + 4 ≤ s.memSize →
    decode [s.mem.read s.cp.toNat, s.mem.read (s.cp.toNat + 1), s.mem.read (s.cp.toNat + 2),
      s.mem.read (s.cp.toNat + 3)] = .ok (i, rest) →
    step s = exec i t) ∧
  (∀ (s : State) (a : HostAccess) turns, s.host.script = .host a :: turns →
    step s = hostStep a { s with host := { s.host with script := turns } })

/-- The three faults of the execution cycle, in their order, each with its detail (rule R140 steps 1, 2, 4). -/
def Obligations.FetchFaults : Prop :=
  ∀ s t : State, engineTurn s t → s.run.busy = true → s.run.stopReq = false →
    (s.cp.toNat % 4 ≠ 0 → step s = .next (faulted t 2 s.cp.toNat)) ∧
    (s.cp.toNat % 4 = 0 → s.memSize < s.cp.toNat + 4 → step s = .next (faulted t 3 s.cp.toNat)) ∧
    (∀ e, s.cp.toNat % 4 = 0 → s.cp.toNat + 4 ≤ s.memSize → decodeWord (s.mem.readWord s.cp.toNat) = .error e →
      step s = .next (faulted t 1 (s.mem.readWord s.cp.toNat).toNat))

/-- A pending stop is honoured instead of a fetch, and nothing but the run state and the pending interrupt changes
(rule R312). An idle engine's turn changes nothing but the host script (rules R24, R320; log 4), and with no host step
pending no agent has a step (log 5). -/
def Obligations.StopAndIdle : Prop :=
  (∀ s t : State, engineTurn s t → s.run.busy = true → s.run.stopReq = true →
    step s = .next { t with
      run := { s.run with busy := false, stopped := true, stopReq := false }
      irq := { s.irq with status := s.irq.status ||| 8#4 } }) ∧
  (∀ (s : State) turns, s.run.busy = false → s.host.script = .engine :: turns →
    step s = .next { s with host := { s.host with script := turns } }) ∧
  (∀ s : State, s.run.busy = false → s.host.script = [] → step s = .fault .noAgentSteps)

/-- Every command in every state has an outcome of the machine, and a step stops only where no agent has a step or the
host names an address that does not exist (rule R352; logs 5 and 7). -/
def Obligations.EveryCommandHasAnOutcome : Prop :=
  (∀ (i : Instr) (s : State), ∃ t, exec i s = .next t) ∧
  (∀ (s : State) (r : Refusal), step s ≠ .refused r) ∧
  (∀ (s : State) (f : Fault), step s = .fault f →
    (f = .noAgentSteps ∧ s.host.script = [] ∧ s.run.busy = false) ∨
    (∃ a, f = .hostAddressAbsent a ∧ s.memSize ≤ a))

/-- Faults are precise: a command that ends in a fault has changed nothing but what taking the fault writes, and `CP`
still addresses it (rules R304, R305). -/
def Obligations.FaultsAreVoid : Prop :=
  ∀ (i : Instr) (s t : State), exec i s = .next t → s.run.fault = false → t.run.fault = true →
    (∃ code v : Nat, 1 ≤ code ∧ code ≤ 10 ∧ t = faulted s code v) ∧ t.cp = s.cp ∧ sameMemory s t

/-- What no command can do, whatever its operands (rules R35, R287, R315): touch the interrupt enables, clear a pending
interrupt or `HWERR`, restart a stopped engine, reach the host or `MEMSIZE`, or change the configuration of an open
frame. The reference set changes only where `FRMNEXT` closes the frame. -/
def Obligations.EngineCannot : Prop :=
  ∀ (i : Instr) (s t : State), exec i s = .next t →
    t.irq.enable = s.irq.enable ∧ s.irq.status &&& ~~~t.irq.status = 0 ∧ t.run.hwErr = s.run.hwErr ∧
    (s.run.busy = false → t.run.busy = false) ∧ t.run.stopped = s.run.stopped ∧
    (s.run.fault = true → t.run.fault = true) ∧ t.host = s.host ∧ t.memSize = s.memSize ∧
    (s.frame.fs ≠ .awaiting → { t.cfg with refs := s.cfg.refs } = s.cfg) ∧
    (t.frame.fs ≠ .awaiting → s.frame.fs ≠ .awaiting → t.cfg = s.cfg ∧
      t.sink.base = s.sink.base ∧ t.sink.limit = s.sink.limit)

/-! ### Sequencer -/

/-- `NOP` and `HALT` (rules R141, R142): a `NOP` moves `CP` alone; a `HALT` stops the run and drops a pending stop
request. -/
def Obligations.NopAndHalt : Prop :=
  decodeWord 0x0C000000 = .ok .nop ∧ decodeWord 0x04000000 = .ok .halt ∧
  ∀ s : State,
    exec .nop s = .next { s with cp := BitVec.ofNat 32 (s.cp.toNat + 4) } ∧
    exec .halt s = .next { s with
      cp := BitVec.ofNat 32 (s.cp.toNat + 4)
      run := { s.run with busy := false, halted := true, stopReq := false }
      irq := { s.irq with status := s.irq.status ||| 1#4 } }

/-- `BR` (rule R143): the ten conditions and their numbers, the target, and the five numbers that are no condition. -/
def Obligations.Branch : Prop :=
  (∀ (c : Cond) (off : BitVec 22) (s : State),
    encodedB 0x02 (condCode c) off (.br c off) ∧
    ∃ t, exec (.br c off) s = .next t ∧ t = { s with cp := t.cp } ∧
      (t.cp : Word) =
        if c = .al ∨ (c = .eq ∧ s.flags.z = true) ∨ (c = .ne ∧ s.flags.z = false) ∨ (c = .lt ∧ s.flags.lt = true) ∨
          (c = .ge ∧ s.flags.lt = false) ∨ (c = .ltu ∧ s.flags.ltu = true) ∨ (c = .geu ∧ s.flags.ltu = false) ∨
          (c = .esc ∧ s.flags.esc = true) ∨ (c = .nesc ∧ s.flags.esc = false) ∨ (c = .exh ∧ s.flags.exh = true) ∨
          (c = .nexh ∧ s.flags.exh = false)
        then BitVec.ofInt 32 (s.cp.toNat + 4 + 4 * off.toInt) else BitVec.ofNat 32 (s.cp.toNat + 4)) ∧
  [Cond.al, .eq, .ne, .lt, .ge, .ltu, .geu, .esc, .nesc, .exh, .nexh].map condCode =
    [0, 1, 2, 3, 4, 5, 6, 7, 8, 9, 10] ∧
  (∀ w : Word, opField w = 0x02 → 11 ≤ (rdField w).toNat → decodeWord w = .error .badCondition)

/-- The five integer commands (rules R144 to R148): each writes its result modulo 2^32 to its destination, discards it
where that is `R0`, and leaves every flag and everything else alone. -/
def Obligations.IntegerCommands : Prop :=
  ∀ (rd ra rb : Reg) (imm : BitVec 16) (s : State),
    (encodedI 0x04 (regBits rd) (regBits ra) imm (.addi rd ra imm) ∧
      ∃ t, exec (.addi rd ra imm) s = .next t ∧ wroteRegister s rd ((s.x ra).toNat + imm.toInt) t) ∧
    (encodedI 0x05 (regBits rd) (regBits ra) imm (.ori rd ra imm) ∧
      ∃ t, exec (.ori rd ra imm) s = .next t ∧ wroteRegister s rd (((s.x ra).toNat ||| imm.toNat : Nat) : Int) t) ∧
    (encodedI 0x06 (regBits rd) 0 imm (.lui rd imm) ∧
      ∃ t, exec (.lui rd imm) s = .next t ∧ wroteRegister s rd ((imm.toNat * 2 ^ 16 : Nat) : Int) t) ∧
    (encodedR 0x08 (regBits rd) (regBits ra) (regBits rb) 0 (.add rd ra rb) ∧
      ∃ t, exec (.add rd ra rb) s = .next t ∧ wroteRegister s rd ((s.x ra).toNat + (s.x rb).toNat) t) ∧
    (encodedR 0x09 (regBits rd) (regBits ra) (regBits rb) 0 (.sub rd ra rb) ∧
      ∃ t, exec (.sub rd ra rb) s = .next t ∧ wroteRegister s rd ((s.x ra).toNat - (s.x rb).toNat) t)

/-- `CMP` (rule R149). -/
def Obligations.Compare : Prop :=
  ∀ (ra rb : Reg) (s : State),
    encodedR 0x0A 0 (regBits ra) (regBits rb) 0 (.cmp ra rb) ∧
    exec (.cmp ra rb) s = .next { s with
      cp := BitVec.ofNat 32 (s.cp.toNat + 4)
      flags := { s.flags with
        z := decide (s.x ra = s.x rb)
        lt := decide ((s.x ra).toInt < (s.x rb).toInt)
        ltu := decide ((s.x ra).toNat < (s.x rb).toNat) } }

/-- `LDW` (rules R151, R152): the effective address, the little-endian read, and the two faults in their order. -/
def Obligations.LoadWord : Prop :=
  ∀ (rd ra : Reg) (imm : BitVec 16) (s : State),
    let ea := (effectiveAddress s ra imm).toNat
    encodedI 0x0C (regBits rd) (regBits ra) imm (.ldw rd ra imm) ∧
    (ea : Int) = ((s.x ra).toNat + imm.toInt) % 2 ^ 32 ∧
    (ea % 4 = 0 → ea + 4 ≤ s.memSize →
      ∃ t, exec (.ldw rd ra imm) s = .next t ∧
        wroteRegister s rd (((s.mem.read ea).toNat + 2 ^ 8 * (s.mem.read (ea + 1)).toNat +
          2 ^ 16 * (s.mem.read (ea + 2)).toNat + 2 ^ 24 * (s.mem.read (ea + 3)).toNat : Nat) : Int) t) ∧
    (ea % 4 ≠ 0 → exec (.ldw rd ra imm) s = .next (faulted s 4 ea)) ∧
    (ea % 4 = 0 → s.memSize < ea + 4 → exec (.ldw rd ra imm) s = .next (faulted s 3 ea))

/-- `STW` (rules R151, R153): the four bytes stored, every other byte and everything else unchanged, and the two faults
in their order. -/
def Obligations.StoreWord : Prop :=
  ∀ (rs ra : Reg) (imm : BitVec 16) (s : State),
    let ea := (effectiveAddress s ra imm).toNat
    encodedI 0x0D (regBits rs) (regBits ra) imm (.stw rs ra imm) ∧
    (ea : Int) = ((s.x ra).toNat + imm.toInt) % 2 ^ 32 ∧
    (ea % 4 = 0 → ea + 4 ≤ s.memSize →
      ∃ t, exec (.stw rs ra imm) s = .next t ∧
        (∀ k, k < 4 → (t.mem.read (ea + k)).toNat = (s.x rs).toNat / 2 ^ (8 * k) % 2 ^ 8) ∧
        (∀ a, a < ea ∨ ea + 4 ≤ a → t.mem.read a = s.mem.read a) ∧
        t = { s with mem := t.mem, cp := BitVec.ofNat 32 (s.cp.toNat + 4) }) ∧
    (ea % 4 ≠ 0 → exec (.stw rs ra imm) s = .next (faulted s 4 ea)) ∧
    (ea % 4 = 0 → s.memSize < ea + 4 → exec (.stw rs ra imm) s = .next (faulted s 3 ea))

/-! ### Control registers -/

/-- The register table of rule R26, row by row: the register a number names, its class, its implemented bits, its value
after reset, and the field of the state it reads in every state; which numbers do not exist. -/
def Obligations.RegisterTable : Prop :=
  (∀ row ∈ registerRows, csrOfNumber row.number = some row.register ∧ csrClass row.register = row.access ∧
    csrRead State.reset row.register = row.reset ∧
    ∀ s : State, (csrRead s row.register).toNat = row.holds s ∧ csrRead s row.register &&& ~~~row.bits = 0) ∧
  (∀ (i : Fin 4) (s : State),
    let slot := s.cfg.refs[i]
    let n := 0x020 + 4 * i.val
    (csrOfNumber n = some (.refCtl i) ∧ csrOfNumber (n + 1) = some (.refY i) ∧
      csrOfNumber (n + 2) = some (.refCb i) ∧ csrOfNumber (n + 3) = some (.refCr i)) ∧
    (∀ c ∈ [Csr.refCtl i, .refY i, .refCb i, .refCr i], csrClass c = .rwf ∧ csrRead State.reset c = 0) ∧
    (csrRead s (.refCtl i)).toNat = 2 ^ 31 * slot.valid.toNat + slot.index.toNat ∧
    csrRead s (.refY i) = slot.y ∧ csrRead s (.refCb i) = slot.cb ∧ csrRead s (.refCr i) = slot.cr) ∧
  (∀ (p : Fin 64) (s : State), csrOfNumber (0x080 + p.val) = some (.qm p) ∧ csrClass (.qm p) = .rwf ∧
    csrRead State.reset (.qm p) = 16 ∧ (csrRead s (.qm p)).toNat = (s.cfg.qm[p]).toNat) ∧
  (∀ (k : Fin 6) (n : Fin 64) (s : State), csrOfNumber (0x100 + 64 * k.val + n.val) = some (.qc k n) ∧
    csrClass (.qc k n) = .ro ∧ csrRead State.reset (.qc k n) = 0 ∧
    ((s.qc[k][n]).natAbs ≤ 255 → (csrRead s (.qc k n)).toInt = s.qc[k][n])) ∧
  (∀ n : Nat, csrOfNumber n = none ↔ missingNumber n ∨ 0x1000 ≤ n)

/-- `RDCSR` (rule R154): the value, in every state, of every register that exists; else IllegalCsr. `STATUS` and
`FLAGS` bit by bit (rules R23, R33): what is not a listed bit reads 0. -/
def Obligations.ReadRegister : Prop :=
  ∀ (rd : Reg) (csr : BitVec 16) (s : State),
    encodedI 0x0E (regBits rd) 0 csr (.rdcsr rd csr) ∧
    (∀ c, csrOfNumber csr.toNat = some c →
      ∃ t, exec (.rdcsr rd csr) s = .next t ∧ wroteRegister s rd ((csrRead s c).toNat : Int) t) ∧
    (csrOfNumber csr.toNat = none → exec (.rdcsr rd csr) s = .next (faulted s 5 csr.toNat)) ∧
    csrRead s .ctrl = 0 ∧ csrRead s .cp = s.cp ∧
    (csrRead s .status).toNat = statusValue s ∧ (csrRead s .flags).toNat = flagsValue s

/-- `WRCSR` (rule R155): the implemented bits are stored, no other register, no general register and no byte of memory
changes except that a write to `BITPOS` clears `ACC`; and the two faults in their order. -/
def Obligations.WriteRegister : Prop :=
  ∀ (ra : Reg) (csr : BitVec 16) (s : State),
    encodedI 0x0F 0 (regBits ra) csr (.wrcsr csr ra) ∧
    (∀ c, csrOfNumber csr.toNat = some c → (csrClass c = .rw ∨ (csrClass c = .rwf ∧ s.frame.fs = .awaiting)) →
      ∃ t, exec (.wrcsr csr ra) s = .next t ∧
        csrRead t c = s.x ra &&& implementedBits c ∧
        (∀ c', c' ≠ c → c' ≠ .cp → ¬(c = .bitpos ∧ c' = .acc) → csrRead t c' = csrRead s c') ∧
        (c = .bitpos → csrRead t .acc = 0) ∧ t.cp.toNat = (s.cp.toNat + 4) % 2 ^ 32 ∧
        (∀ r : Reg, t.x r = s.x r) ∧ sameMemory s t ∧ t.run = s.run ∧ t.cur = s.cur ∧ t.qc = s.qc ∧
        t.memSize = s.memSize ∧ t.host = s.host) ∧
    (∀ c, csrOfNumber csr.toNat = some c → csrClass c = .ro ∨ csrClass c = .hc ∨ csrClass c = .hi →
      exec (.wrcsr csr ra) s = .next (faulted s 5 csr.toNat)) ∧
    (csrOfNumber csr.toNat = none → exec (.wrcsr csr ra) s = .next (faulted s 5 csr.toNat)) ∧
    (∀ c, csrOfNumber csr.toNat = some c → csrClass c = .rwf → s.frame.fs ≠ .awaiting →
      exec (.wrcsr csr ra) s = .next (faulted s 6 (stateDetail s)))


/-! ### Block metric -/

/-- `LDCUR` (rule R175): the 384 samples loaded, the position, the three faults in their order. -/
def Obligations.LoadCurrentUnit : Prop :=
  ∀ (ra : Reg) (s : State),
    let x := lo16s (s.x ra)
    let y := hi16s (s.x ra)
    let legal := coding s ∧ s.frame.uphase = false
    let placed := 0 ≤ x ∧ 0 ≤ y ∧ x % 16 = 0 ∧ y % 16 = 0 ∧ x + 16 ≤ lumaW s ∧ y + 16 ≤ lumaH s
    let touched := unitAddress s s.cfg.curY s.cfg.curCb s.cfg.curCr x.toNat y.toNat
    encodedR 0x10 0 (regBits ra) 0 0 (.ldcur ra) ∧
    (legal → placed → (∀ a, touched a → a < s.memSize) →
      ∃ t, exec (.ldcur ra) s = .next t ∧
        (∀ i j : Fin 16, t.cur.y[16 * i.val + j.val]'(by omega) =
          s.mem.read (s.cfg.curY.toNat + (y.toNat + i) * lumaW s + x.toNat + j)) ∧
        (∀ i j : Fin 8, t.cur.cb[8 * i.val + j.val]'(by omega) =
          s.mem.read (s.cfg.curCb.toNat + (y.toNat / 2 + i) * chromaW s + x.toNat / 2 + j)) ∧
        (∀ i j : Fin 8, t.cur.cr[8 * i.val + j.val]'(by omega) =
          s.mem.read (s.cfg.curCr.toNat + (y.toNat / 2 + i) * chromaW s + x.toNat / 2 + j)) ∧
        t.cur.pos = s.x ra ∧ t.cur.valid = true ∧ sameMemory s t ∧
        t = { s with cur := t.cur, cp := BitVec.ofNat 32 (s.cp.toNat + 4) }) ∧
    (¬legal → exec (.ldcur ra) s = .next (faulted s 6 (stateDetail s))) ∧
    (legal → ¬placed → exec (.ldcur ra) s = .next (faulted s 7 (s.x ra).toNat)) ∧
    (∀ a, legal → placed → lowestMissing s.memSize touched a → exec (.ldcur ra) s = .next (faulted s 3 a))

/-- The two metrics of 16 by 16 blocks are the full double sums, with their ranges and laws (rules R170, R171). -/
def Obligations.MetricSums : Prop :=
  ∀ A B : Nat → Nat → Nat,
    (∀ i j, A i j ≤ 255) → (∀ i j, B i j ≤ 255) →
    let a := rasterBlock 16 A
    let b := rasterBlock 16 B
    blockMetric .sad a b = ∑ i ∈ Finset.range 16, ∑ j ∈ Finset.range 16, ((A i j : Int) - B i j).natAbs ∧
    (blockMetric .ssd a b : Int) = ∑ i ∈ Finset.range 16, ∑ j ∈ Finset.range 16, ((A i j : Int) - B i j) ^ 2 ∧
    blockMetric .sad a b ≤ 65280 ∧ blockMetric .ssd a b ≤ 16646400 ∧
    (∀ met, blockMetric met a a = 0) ∧ (∀ met, blockMetric met a b = blockMetric met b a) ∧
    (∀ met, blockMetric met a b = 0 ↔ a = b) ∧
    blockMetric .sad a b ≤ blockMetric .ssd a b ∧ blockMetric .ssd a b ≤ 255 * blockMetric .sad a b

/-- `PredBlock` sample by sample (rule R173): copies at full-sample positions, averages with halves rounded up at
half-sample positions; and the prediction of a unit in each mode, the chroma vector halved toward zero (rule R210). -/
def Obligations.PredictedBlock : Prop :=
  (∀ (m : Memory) (p : Plane) (at2 : Vec) (n : Nat), 0 ≤ at2.x → 0 ≤ at2.y →
    let S := fun x y : Nat => (m.read (p.base + y * p.width + x)).toNat
    let ix := (at2.x / 2).toNat
    let iy := (at2.y / 2).toNat
    predBlock m p at2 n = rasterBlock n fun i j =>
      let x := ix + j
      let y := iy + i
      if at2.x % 2 = 0 then
        if at2.y % 2 = 0 then S x y else (S x y + S x (y + 1) + 1) / 2
      else
        if at2.y % 2 = 0 then (S x y + S (x + 1) y + 1) / 2
        else (S x y + S (x + 1) y + S x (y + 1) + S (x + 1) (y + 1) + 2) / 4) ∧
  (∀ (s : State) (pos : Vec),
    let pred := fun (slot : RefSlot) (mv : Word) =>
      let chroma : Vec :=
        ⟨pos.x + (lo16s mv).sign * ((lo16s mv).natAbs / 2 : Nat), pos.y + (hi16s mv).sign * ((hi16s mv).natAbs / 2 : Nat)⟩
      (predBlock s.mem ⟨slot.y.toNat, lumaW s, lumaH s⟩ ⟨2 * pos.x + lo16s mv, 2 * pos.y + hi16s mv⟩ 16,
        predBlock s.mem ⟨slot.cb.toNat, lumaW s / 2, lumaH s / 2⟩ chroma 8,
        predBlock s.mem ⟨slot.cr.toNat, lumaW s / 2, lumaH s / 2⟩ chroma 8)
    let f := pred s.cfg.refs[s.cfg.fwdSel] s.me.mvf
    let b := pred s.cfg.refs[s.cfg.bwdSel] s.me.mvb
    let mean := List.zipWith fun p q : Nat => (p + q + 1) / 2
    predictUnit s .intra pos = ⟨List.replicate 256 0, List.replicate 64 0, List.replicate 64 0⟩ ∧
    predictUnit s .forward pos = ⟨f.1, f.2.1, f.2.2⟩ ∧ predictUnit s .backward pos = ⟨b.1, b.2.1, b.2.2⟩ ∧
    predictUnit s .interpolated pos = ⟨mean f.1 b.1, mean f.2.1 b.2.1, mean f.2.2 b.2.2⟩)

/-- A block inside a plane reads no byte outside the plane (the sentence of `41_block_metric.md` section 2 "No rule ever
reads a sample outside a plane"), and where the luma block of a displaced unit is inside its plane, so are the chroma
blocks (the spec's own inference in `43_transform_quant.md` section 1). -/
def Obligations.FootprintsInsidePlanes : Prop :=
  (∀ (base w h : Nat) (px2 py2 : Int) (n : Nat), insidePlane px2 py2 n w h →
    (∀ a, footprintAddress base w px2 py2 n a → base ≤ a ∧ a < base + w * h) ∧
    (∀ a, footprintAddress base w px2 py2 n a ↔
      ∃ sp ∈ footprint ⟨base, w, h⟩ ⟨px2, py2⟩ n, sp.first ≤ a ∧ a < sp.first + sp.len)) ∧
  (∀ (x y mvx mvy : Int) (w h : Nat), x % 16 = 0 → y % 16 = 0 → w % 2 = 0 → h % 2 = 0 →
    insidePlane (2 * x + mvx) (2 * y + mvy) 16 w h → insidePlane (x + tz2 mvx) (y + tz2 mvy) 8 (w / 2) (h / 2))

/-- `METRIC` (rule R178): the metric of one named candidate, and the five faults in their order. -/
def Obligations.MetricCommand : Prop :=
  ∀ (met : MetricKind) (dir : Dir) (rd ra rb : Reg) (s : State),
    let ox := lo16s (s.x ra)
    let oy := hi16s (s.x ra)
    let px2 := 2 * ox + lo16s (s.x rb)
    let py2 := 2 * oy + hi16s (s.x rb)
    let ready := coding s ∧ s.cur.valid = true
    let allowed := (dir = .forward ∧ s.frame.ftype ≠ .intra) ∨ (dir = .backward ∧ s.frame.ftype = .bidirectional)
    let placed := 0 ≤ ox ∧ 0 ≤ oy ∧ ox + 16 ≤ lumaW s ∧ oy + 16 ≤ lumaH s
    let inside := insidePlane px2 py2 16 (lumaW s) (lumaH s)
    let touched := footprintAddress (refBase s dir) (lumaW s) px2 py2 16
    let i : Instr := .metric met dir rd ra rb
    encodedR 0x11 (regBits rd) (regBits ra) (regBits rb)
      ((if met = .ssd then 4 else 0) ||| (if dir = .backward then 1 else 0)) i ∧
    (ready → allowed → placed → inside → (∀ a, touched a → a < s.memSize) →
      ∃ t, exec i s = .next t ∧
        wroteRegister s rd (blockMetric met (curLuma s)
          (predBlock s.mem ⟨refBase s dir, lumaW s, lumaH s⟩ ⟨px2, py2⟩ 16)) t) ∧
    (¬ready → exec i s = .next (faulted s 6 (stateDetail s))) ∧
    (ready → ¬allowed → exec i s = .next (faulted s 10 (if dir = .forward then 1 else 2))) ∧
    (ready → allowed → ¬placed → exec i s = .next (faulted s 7 (s.x ra).toNat)) ∧
    (ready → allowed → placed → ¬inside → exec i s = .next (faulted s 7 (s.x rb).toNat)) ∧
    (∀ a, ready → allowed → placed → inside → lowestMissing s.memSize touched a →
      exec i s = .next (faulted s 3 a))

/-- `ACT` (rule R180): the metric between the unit's luma and its rounded mean, its range, and the one fault. -/
def Obligations.IntraCost : Prop :=
  ∀ (met : MetricKind) (rd : Reg) (s : State),
    let total : Nat := ∑ k : Fin 256, (s.cur.y[k]).toNat
    let mean : Nat := (total + 128) / 2 ^ 8
    let v : Nat := ∑ k : Fin 256,
      (if met = .sad then (((s.cur.y[k]).toNat : Int) - mean).natAbs
       else (((s.cur.y[k]).toNat : Int) - mean).natAbs ^ 2)
    let ready := coding s ∧ s.cur.valid = true
    encodedR 0x12 (regBits rd) 0 0 (if met = .ssd then 4 else 0) (.act met rd) ∧
    v ≤ (if met = .sad then 32768 else 4194304) ∧
    (ready → ∃ t, exec (.act met rd) s = .next t ∧
      t.x rd = (if rd = 0 then 0 else BitVec.ofNat 32 v) ∧ (∀ r : Reg, r ≠ rd → t.x r = s.x r) ∧ sameMemory s t ∧
      t = { s with
        regs := t.regs
        cp := BitVec.ofNat 32 (s.cp.toNat + 4)
        me := { s.me with actcost := BitVec.ofNat 32 v } }) ∧
    (¬ready → exec (.act met rd) s = .next (faulted s 6 (stateDetail s)))

/-! ### Motion search -/

/-- `Search` (rules R190 to R193): stage 1 finds the least key among the full-sample candidates, stage 2 the least
among its legal half-sample neighbours and itself. -/
def Obligations.SearchIsLeast : Prop :=
  ∀ (s : State) (p : Plane) (o : Vec) (met : MetricKind),
    0 ≤ o.x → 0 ≤ o.y → o.x + 16 ≤ lumaW s → o.y + 16 ≤ lumaH s →
    let D := fun x y : Int => blockMetric met (curLuma s) (predBlock s.mem p ⟨2 * o.x + x, 2 * o.y + y⟩ 16)
    let r : Int := ((s.cfg.sradius.toNat / 2 : Nat) : Int)
    let c := searchFull s p o met
    let b := search s p o met
    (∃ dx dy : Int, -r ≤ dx ∧ dx ≤ r ∧ -r ≤ dy ∧ dy ≤ r ∧ c = ⟨⟨2 * dx, 2 * dy⟩, D (2 * dx) (2 * dy)⟩ ∧
      legalCandidate s o.x o.y (2 * dx) (2 * dy)) ∧
    (∀ dx dy : Int, -r ≤ dx → dx ≤ r → -r ≤ dy → dy ≤ r → legalCandidate s o.x o.y (2 * dx) (2 * dy) →
      ¬keyBefore ⟨⟨2 * dx, 2 * dy⟩, D (2 * dx) (2 * dy)⟩ c) ∧
    (∃ ex ey : Int, -1 ≤ ex ∧ ex ≤ 1 ∧ -1 ≤ ey ∧ ey ≤ 1 ∧
      b = ⟨⟨c.mv.x + ex, c.mv.y + ey⟩, D (c.mv.x + ex) (c.mv.y + ey)⟩ ∧
      legalCandidate s o.x o.y (c.mv.x + ex) (c.mv.y + ey)) ∧
    (∀ ex ey : Int, -1 ≤ ex → ex ≤ 1 → -1 ≤ ey → ey ≤ 1 →
      legalCandidate s o.x o.y (c.mv.x + ex) (c.mv.y + ey) →
      ¬keyBefore ⟨⟨c.mv.x + ex, c.mv.y + ey⟩, D (c.mv.x + ex) (c.mv.y + ey)⟩ b)

/-- A search is never worse than the zero vector, and finds it where the reference block at the origin equals the unit
(the spec's own inference "Never worse than the zero vector" in `42_motion_search.md` section 2); no vector it finds is
longer than the radius (rule R191). -/
def Obligations.SearchNeverWorse : Prop :=
  ∀ (s : State) (p : Plane) (o : Vec) (met : MetricKind),
    0 ≤ o.x → 0 ≤ o.y → o.x + 16 ≤ lumaW s → o.y + 16 ≤ lumaH s →
    let b := search s p o met
    let zero := predBlock s.mem p ⟨2 * o.x, 2 * o.y⟩ 16
    b.dist ≤ blockMetric met (curLuma s) zero ∧
    b.mv.x.natAbs ≤ s.cfg.sradius.toNat ∧ b.mv.y.natAbs ≤ s.cfg.sradius.toNat ∧
    (zero = curLuma s → b = ⟨⟨0, 0⟩, 0⟩) ∧
    (∀ df db di : Nat, (selectMode df db di).1 = min (min df db) di)

/-- `MSRCH` (rules R194, R196, R197): the result registers of the branch taken, the others kept, the four faults in
their order, and the direction that is no command. -/
def Obligations.MotionSearch : Prop :=
  (∀ w : Word, opField w = 0x14 → (w.extractLsb' 0 2).toNat = 3 → ∀ i, decodeWord w ≠ .ok i) ∧
  ∀ (met : MetricKind) (dir : SearchDir) (rd ra : Reg) (s : State),
    let o : Vec := ⟨lo16s (s.x ra), hi16s (s.x ra)⟩
    let plane := fun d : Dir => (⟨refBase s d, lumaW s, lumaH s⟩ : Plane)
    let ready := coding s ∧ s.cur.valid = true
    let allowed := (dir = .forward ∧ s.frame.ftype ≠ .intra) ∨ s.frame.ftype = .bidirectional
    let placed := 0 ≤ o.x ∧ 0 ≤ o.y ∧ o.x + 16 ≤ lumaW s ∧ o.y + 16 ≤ lumaH s
    let touched := fun a : Nat => ∃ d : Dir, searchUses dir d ∧ refBase s d ≤ a ∧ a < refBase s d + lumaW s * lumaH s
    let f := search s (plane .forward) o met
    let b := search s (plane .backward) o met
    let di := blockMetric met (curLuma s)
      (List.zipWith (fun p q => (p + q + 1) / 2)
        (predBlock s.mem (plane .forward) ⟨2 * o.x + f.mv.x, 2 * o.y + f.mv.y⟩ 16)
        (predBlock s.mem (plane .backward) ⟨2 * o.x + b.mv.x, 2 * o.y + b.mv.y⟩ 16))
    let i : Instr := .msrch met dir rd ra
    encodedR 0x14 (regBits rd) (regBits ra) 0
      ((if met = .ssd then 4 else 0) |||
        (match dir with
         | .forward => 0
         | .backward => 1
         | .bidirectional => 2)) i ∧
    (ready → allowed → placed → (∀ a, touched a → a < s.memSize) →
      ∃ t, exec i s = .next t ∧
        t.x rd = (if rd = 0 then 0 else t.me.mdist) ∧ (∀ r : Reg, r ≠ rd → t.x r = s.x r) ∧ sameMemory s t ∧
        t = { s with regs := t.regs, me := t.me, cp := BitVec.ofNat 32 (s.cp.toNat + 4) } ∧
        (dir = .forward → t.me = { s.me with
          mvf := pack f.mv.x f.mv.y, distf := BitVec.ofNat 32 f.dist, memode := .forward
          mdist := BitVec.ofNat 32 f.dist }) ∧
        (dir = .backward → t.me = { s.me with
          mvb := pack b.mv.x b.mv.y, distb := BitVec.ofNat 32 b.dist, memode := .backward
          mdist := BitVec.ofNat 32 b.dist }) ∧
        (dir = .bidirectional →
          t.me = { s.me with
            mvf := pack f.mv.x f.mv.y, distf := BitVec.ofNat 32 f.dist
            mvb := pack b.mv.x b.mv.y, distb := BitVec.ofNat 32 b.dist
            disti := BitVec.ofNat 32 di, memode := t.me.memode, mdist := t.me.mdist } ∧
          (f.dist ≤ b.dist → f.dist ≤ di → t.me.memode = .forward ∧ t.me.mdist = BitVec.ofNat 32 f.dist) ∧
          (b.dist < f.dist → b.dist ≤ di → t.me.memode = .backward ∧ t.me.mdist = BitVec.ofNat 32 b.dist) ∧
          (di < f.dist → di < b.dist → t.me.memode = .interpolated ∧ t.me.mdist = BitVec.ofNat 32 di))) ∧
    (¬ready → exec i s = .next (faulted s 6 (stateDetail s))) ∧
    (ready → ¬allowed → exec i s = .next (faulted s 10
      (match dir with
       | .forward => 1
       | .backward => 2
       | .bidirectional => 3))) ∧
    (ready → allowed → ¬placed → exec i s = .next (faulted s 7 (s.x ra).toNat)) ∧
    (∀ a, ready → allowed → placed → lowestMissing s.memSize touched a → exec i s = .next (faulted s 3 a))

/-- `MDEC` (rule R200): the comparison with the biased sum as an unbounded integer, the flag `Z`, and the one fault. -/
def Obligations.ModeDecision : Prop :=
  ∀ (rd : Reg) (s : State),
    let mode : CodingMode :=
      if s.frame.ftype = .intra ∨ s.me.memode = .intra then .intra
      else if s.me.actcost.toNat ≤ s.me.mdist.toNat + s.me.intraBias.toNat then .intra
      else s.me.memode
    encodedR 0x15 (regBits rd) 0 0 0 (.mdec rd) ∧
    (coding s → ∃ t, exec (.mdec rd) s = .next t ∧
      t.x rd = (if rd = 0 then 0 else
        (match mode with
         | .intra => 0
         | .forward => 1
         | .backward => 2
         | .interpolated => 3)) ∧
      (∀ r : Reg, r ≠ rd → t.x r = s.x r) ∧ sameMemory s t ∧
      t = { s with
        regs := t.regs
        cp := BitVec.ofNat 32 (s.cp.toNat + 4)
        flags := { s.flags with z := decide (mode = .intra) } }) ∧
    (¬coding s → exec (.mdec rd) s = .next (faulted s 6 (stateDetail s)))

/-! ### Transform and quantizer -/

/-- `rdiv`: its definition and the facts rule R9 states of it. -/
def Obligations.RoundedDivision : Prop :=
  ∀ (a : Int) (b : Nat), 0 < b →
    rdiv a b = a.sign * ((2 * (a.natAbs : Int) + b) / (2 * b)) ∧
    rdiv (-a) b = -rdiv a b ∧ (rdiv a b = 0 ↔ 2 * a.natAbs < b) ∧ (∀ k : Int, rdiv (k * b) b = k) ∧
    2 * (rdiv a b * b - a).natAbs ≤ b

/-- The two transforms and their inverses are the exact double sums over the tables of the rules, rounded once
(rules R212, R216); `TQMB` transforms the residuals of the unit's six blocks in their order (rules R12, R213). -/
def Obligations.TransformSums : Prop :=
  (∀ X : Nat → Nat → Int,
    let C := entry
      [[1448,  1448,  1448,  1448,  1448,  1448,  1448,  1448],
       [2009,  1703,  1138,   400,  -400, -1138, -1703, -2009],
       [1892,   784,  -784, -1892, -1892,  -784,   784,  1892],
       [1703,  -400, -2009, -1138,  1138,  2009,   400, -1703],
       [1448, -1448, -1448,  1448,  1448, -1448, -1448,  1448],
       [1138, -2009,   400,  1703, -1703,  -400,  2009, -1138],
       [ 784, -1892,  1892,  -784,  -784,  1892, -1892,   784],
       [ 400, -1138,  1703, -2009,  2009, -1703,  1138,  -400]]
    let H := entry
      [[1,  1,  1,  1,  1,  1,  1,  1],
       [1,  1,  1,  1, -1, -1, -1, -1],
       [1,  1, -1, -1, -1, -1,  1,  1],
       [1,  1, -1, -1,  1,  1, -1, -1],
       [1, -1, -1,  1,  1, -1, -1,  1],
       [1, -1, -1,  1, -1,  1,  1, -1],
       [1, -1,  1, -1, -1,  1, -1,  1],
       [1, -1,  1, -1,  1, -1,  1, -1]]
    let sum := fun g : Nat → Nat → Int => ∑ i ∈ Finset.range 8, ∑ j ∈ Finset.range 8, g i j
    forwardTransform false (rasterBlock 8 X) =
      rasterBlock 8 (fun u v => rdiv (sum fun i j => C u i * X i j * C v j) (2 ^ 24)) ∧
    inverseTransform false (rasterBlock 8 X) =
      rasterBlock 8 (fun i j => rdiv (sum fun u v => C u i * X u v * C v j) (2 ^ 24)) ∧
    forwardTransform true (rasterBlock 8 X) =
      rasterBlock 8 (fun u v => rdiv (sum fun i j => H u i * X i j * H v j) 8) ∧
    inverseTransform true (rasterBlock 8 X) =
      rasterBlock 8 (fun i j => rdiv (sum fun u v => H u i * X u v * H v j) 8)) ∧
  (∀ (s : State) (pred : UnitSamples), pred.y.length = 256 → pred.cb.length = 64 → pred.cr.length = 64 →
    let luma := fun r0 c0 : Nat => rasterBlock 8 fun i j =>
      (((s.cur.y[16 * (r0 + i) + (c0 + j)]?).getD 0).toNat : Int) - (pred.y.getD (16 * (r0 + i) + (c0 + j)) 0 : Nat)
    let chroma := fun (v : Vector Byte 64) (p : List Nat) => rasterBlock 8 fun i j =>
      (((v[8 * i + j]?).getD 0).toNat : Int) - (p.getD (8 * i + j) 0 : Nat)
    unitCoefficients s pred =
      [(Component.y, luma 0 0), (.y, luma 0 8), (.y, luma 8 0), (.y, luma 8 8), (.cb, chroma s.cur.cb pred.cb),
        (.cr, chroma s.cur.cr pred.cr)].map fun b => (b.1, forwardTransform s.cfg.xform b.2))

/-- Facts of both forward transforms (rules R212, R216, R219): a constant block has only its DC coefficient, eight times
the sample; the transform is odd; coefficients of samples up to 255 in magnitude are at most 2040 in magnitude. The
zigzag scan (rule R222) is a permutation that walks the anti-diagonals in turn, upwards in `u` on the odd ones. -/
def Obligations.TransformFacts : Prop :=
  (∀ (xform : Bool) (c : Int), -255 ≤ c → c ≤ 255 →
    forwardTransform xform (List.replicate 64 c) = 8 * c :: List.replicate 63 0) ∧
  (∀ (xform : Bool) (x : List Int),
    forwardTransform xform (x.map fun v => -v) = (forwardTransform xform x).map fun v => -v) ∧
  (∀ (xform : Bool) (x : List Int), (∀ v ∈ x, v.natAbs ≤ 255) → ∀ f ∈ forwardTransform xform x, f.natAbs ≤ 2040) ∧
  zigzag.Perm (List.range 64) ∧
  (∀ n, n < 63 →
    let p := zigzag.getD n 0
    let p' := zigzag.getD (n + 1) 0
    let s := p / 8 + p % 8
    (p' / 8 + p' % 8 = s ∧ (if s % 2 = 1 then p' / 8 = p / 8 + 1 else p' / 8 + 1 = p / 8)) ∨
    (p' / 8 + p' % 8 = s + 1 ∧ ∀ k, k < 64 → k / 8 + k % 8 = s → k ∈ zigzag.take (n + 1)))

/-- One block of one pass, coefficient by coefficient (rules R220, R225, R227): levels, DC prediction, the overflow
test before the clamp, effective levels, and the predictor afterwards. Then the pass over the blocks of a unit: each
block reads and replaces the predictor of its own plane type and leaves the other two, the pass overflows where some
block does, and the predictors it ends with are those after the last block. -/
def Obligations.QuantizerPass : Prop :=
  (∀ (intra clampIt : Bool) (qm : List Nat) (q : Nat) (f : List Int) (pred : Word),
    qm.length = 64 → f.length = 64 →
    let step0 := qm.getD 0 0 * q
    let P : Int := if intra = true then rdiv pred.toInt step0 else 0
    let raw := fun p : Nat => rdiv (16 * f.getD p 0) (qm.getD p 0 * q) - (if p = 0 then P else 0)
    let b := quantBlock intra qm q clampIt f pred
    b.coded.length = 64 ∧ b.effective.length = 64 ∧
    (∀ p, p < 64 → b.coded.getD p 0 = if clampIt = true then max (-255) (min (raw p) 255) else raw p) ∧
    (∀ p, p < 64 → b.effective.getD p 0 = b.coded.getD p 0 + (if p = 0 then P else 0)) ∧
    (b.overflow = true ↔ ∃ p, p < 64 ∧ 255 < (raw p).natAbs) ∧
    b.pred = (if intra = true then BitVec.ofInt 32 (b.effective.getD 0 0 * step0) else pred)) ∧
  (∀ (intra clampIt : Bool) (qm : List Nat) (q : Nat) (blocks : List (Component × List Int)) (d0 : DcPredictors),
    let own := fun (d : DcPredictors) (c : Component) => match c with
      | .y => d.y
      | .cb => d.cb
      | .cr => d.cr
    let r := quantPass intra qm q clampIt blocks d0
    r.coded.length = blocks.length ∧ r.effective.length = blocks.length ∧
    ∃ d : Nat → DcPredictors, d 0 = d0 ∧ r.preds = d blocks.length ∧
      (∀ k c f, blocks[k]? = some (c, f) →
        let b := quantBlock intra qm q clampIt f (own (d k) c)
        r.coded[k]? = some b.coded ∧ r.effective[k]? = some b.effective ∧
        d (k + 1) = (match c with
          | .y => ⟨b.pred, (d k).cb, (d k).cr⟩
          | .cb => ⟨(d k).y, b.pred, (d k).cr⟩
          | .cr => ⟨(d k).y, (d k).cb, b.pred⟩) ∧
        (b.overflow = true → r.overflow = true)) ∧
      (r.overflow = true → ∃ k c f, blocks[k]? = some (c, f) ∧
        (quantBlock intra qm q clampIt f (own (d k) c)).overflow = true))

/-- The escalation loop over a unit (rule R226): it ends at the first scale whose pass does not overflow, or clamps at
31; every coded value it leaves is representable. -/
def Obligations.Escalation : Prop :=
  ∀ (s : State) (mode : CodingMode) (pred : UnitSamples),
    let pass := fun (q : Nat) (clampIt : Bool) =>
      quantPass (mode == .intra) (quantMatrix s) q clampIt (unitCoefficients s pred) (dcPredictors s)
    let u := quantizeUnit s mode pred
    s.quant.qscale.toNat ≤ u.scale ∧ u.scale ≤ 31 ∧
    (∀ q, s.quant.qscale.toNat ≤ q → q < u.scale → (pass q false).overflow = true) ∧
    (u.exhausted = false → u.result = pass u.scale false ∧ u.result.overflow = false) ∧
    (u.exhausted = true → u.scale = 31 ∧ (pass 31 false).overflow = true ∧ u.result = pass 31 true) ∧
    (∀ e ∈ u.result.coded, ∀ v ∈ e, v.natAbs ≤ 255)

/-- DC predictor continuity (the spec's own inference in `43_transform_quant.md` section 4): of two consecutive blocks
of one plane type in Intra units with the same DC coefficient and scale, the first not clamped, the second is coded
with delta 0: two blocks of one pass; the last block of a plane type in one unit and the first in the next Intra unit,
as long as the predictor of that type is as the first unit left it; and only an Intra `TQMB`, an `FRMBEG` and a
`WRCSR` to a predictor can change the predictors in between. -/
def Obligations.DcContinuity : Prop :=
  (∀ (qm : List Nat) (q : Nat) (c : Component) (pre post : List (Component × List Int)) (f g : List Int)
      (d : DcPredictors),
    qm.length = 64 → 1 ≤ q → q ≤ 31 → (∀ m ∈ qm, 1 ≤ m ∧ m ≤ 255) → f.length = 64 → g.length = 64 →
    f.getD 0 0 = g.getD 0 0 → (f.getD 0 0).natAbs ≤ 2040 →
    ((quantPass true qm q false (pre ++ (c, f) :: (c, g) :: post) d).coded.getD (pre.length + 1) []).getD 0 1 = 0) ∧
  (∀ s₁ t₁ s₂ t₂ : State, tqmbPasses s₁ .intra → exec (.tqmb .intra) s₁ = .next t₁ → t₁.flags.exh = false →
    tqmbPasses s₂ .intra → exec (.tqmb .intra) s₂ = .next t₂ → s₂.cfg.qm = s₁.cfg.qm → t₂.quant.mbq = t₁.quant.mbq →
    (s₂.quant.dcpy = t₁.quant.dcpy → intraDc s₂ 0 = intraDc s₁ 3 → t₂.qc[0][0] = 0) ∧
    (s₂.quant.dcpcb = t₁.quant.dcpcb → intraDc s₂ 4 = intraDc s₁ 4 → t₂.qc[4][0] = 0) ∧
    (s₂.quant.dcpcr = t₁.quant.dcpcr → intraDc s₂ 5 = intraDc s₁ 5 → t₂.qc[5][0] = 0)) ∧
  (∀ (i : Instr) (s t : State), exec i s = .next t → i ≠ .tqmb .intra → (∀ ftype, i ≠ .frmbeg ftype) →
    (∀ csr ra, i = .wrcsr csr ra → csr ≠ 0x048 ∧ csr ≠ 0x049 ∧ csr ≠ 0x04A) →
    t.quant.dcpy = s.quant.dcpy ∧ t.quant.dcpcb = s.quant.dcpcb ∧ t.quant.dcpcr = s.quant.dcpcr)

/-- Dequantization and reconstruction, sample by sample (rule R230). -/
def Obligations.Reconstruction : Prop :=
  ∀ (xform : Bool) (qm : List Nat) (q : Nat) (pred leff : List Int),
    qm.length = 64 → pred.length = 64 → leff.length = 64 → (∀ v ∈ pred, 0 ≤ v ∧ v ≤ 255) →
    (dequantize qm q leff).length = 64 ∧
    (∀ p, p < 64 → (dequantize qm q leff).getD p 0 = rdiv (leff.getD p 0 * qm.getD p 0 * q) 16) ∧
    (reconstruct xform qm q pred leff).length = 64 ∧
    (∀ p, p < 64 → ((reconstruct xform qm q pred leff).getD p 0).toNat =
      max 0 (min (pred.getD p 0 + (inverseTransform xform (dequantize qm q leff)).getD p 0) 255))

/-- `TQMB` where its checks pass (rule R233 steps 8 to 15): levels, scales, counters, predictors, unit registers, flags,
frame state and interrupt bit, and no byte outside the unit's 384 written. -/
def Obligations.TransformUnit : Prop :=
  ∀ (mode : CodingMode) (s : State),
    let pos : Vec := ⟨lo16s s.cur.pos, hi16s s.cur.pos⟩
    let usesF := mode = .forward ∨ mode = .interpolated
    let usesB := mode = .backward ∨ mode = .interpolated
    let stored := unitAddress s s.cfg.recY s.cfg.recCb s.cfg.recCr pos.x.toNat pos.y.toNat
    let pred := predictUnit s mode pos
    let u := quantizeUnit s mode pred
    encodedR 0x18 0 0 0
      (match mode with
       | .intra => 0
       | .forward => 1
       | .backward => 2
       | .interpolated => 3) (.tqmb mode) ∧
    (tqmbPasses s mode →
      ∃ t, exec (.tqmb mode) s = .next t ∧
        (∀ (k : Fin 6) (n : Fin 64),
          t.qc[k][n] = (u.result.coded.getD k []).getD (zigzag.getD n 0) 0) ∧
        t.quant.qscale.toNat = u.scale ∧ t.quant.mbq.toNat = u.scale ∧ t.quant.prevq = s.quant.prevq ∧
        t.quant.exhcnt = s.quant.exhcnt + (if u.exhausted = true then 1 else 0) ∧
        t.quant.esccnt.toNat = (s.quant.esccnt.toNat + (u.scale - s.quant.qscale.toNat)) % 2 ^ 32 ∧
        (⟨t.quant.dcpy, t.quant.dcpcb, t.quant.dcpcr⟩ : DcPredictors) =
          (if mode = .intra then u.result.preds else ⟨s.quant.dcpy, s.quant.dcpcb, s.quant.dcpcr⟩) ∧
        t.mb.mode = mode ∧ (usesF → t.mb.mvf = s.me.mvf) ∧ (¬usesF → t.mb.mvf = s.mb.mvf) ∧
        (usesB → t.mb.mvb = s.me.mvb) ∧ (¬usesB → t.mb.mvb = s.mb.mvb) ∧
        t.mb.pmvf = s.mb.pmvf ∧ t.mb.pmvb = s.mb.pmvb ∧
        t.flags = { s.flags with esc := decide (s.quant.qscale.toNat < u.scale), exh := u.exhausted } ∧
        t.frame = { s.frame with uphase := true, fs := .encoding } ∧
        t.irq = { s.irq with status := s.irq.status ||| (if u.exhausted = true then 4 else 0) } ∧
        (∀ a, ¬stored a → t.mem.read a = s.mem.read a) ∧
        t = { s with
          mem := t.mem, qc := t.qc, quant := t.quant, mb := t.mb, flags := t.flags, frame := t.frame, irq := t.irq
          cp := BitVec.ofNat 32 (s.cp.toNat + 4) })

/-- The samples `TQMB` stores (rules R213, R230, R231): where its checks pass it completes, and each of the 384 bytes
holds the reconstructed sample of its block, row and column. Where the unit's areas overlap (rule R348), the last of the
samples stored to a byte, in the order of the blocks and their rows, is the one it holds. -/
def Obligations.ReconstructedSamples : Prop :=
  ∀ (mode : CodingMode) (s : State), tqmbPasses s mode → ∃ t, exec (.tqmb mode) s = .next t ∧
    ∀ m, m < 384 → (∀ m', m < m' → m' < 384 → samplePlace s m' ≠ samplePlace s m) →
      ((t.mem.read (samplePlace s m)).toNat : Int) = reconstructedSample s mode m

/-- The faults of `TQMB`, in the order of rule R233 steps 1 to 7. -/
def Obligations.TransformUnitFaults : Prop :=
  ∀ (mode : CodingMode) (s : State),
    let pos : Vec := ⟨lo16s s.cur.pos, hi16s s.cur.pos⟩
    let usesF := mode = .forward ∨ mode = .interpolated
    let usesB := mode = .backward ∨ mode = .interpolated
    let ready := coding s ∧ s.frame.uphase = false ∧ s.cur.valid = true
    let allowed := mode = .intra ∨ s.frame.ftype = .bidirectional ∨ (s.frame.ftype = .predicted ∧ mode = .forward)
    let scaled := s.quant.qscale ≠ 0
    let next := s.cur.pos =
      pack (16 * (s.frame.mbcount.toNat % unitsWide s) : Nat) (16 * (s.frame.mbcount.toNat / unitsWide s) : Nat)
    let vecF := usesF → legalCandidate s pos.x pos.y (lo16s s.me.mvf) (hi16s s.me.mvf)
    let vecB := usesB → legalCandidate s pos.x pos.y (lo16s s.me.mvb) (hi16s s.me.mvb)
    let fails := fun code v => exec (.tqmb mode) s = .next (faulted s code v)
    (¬ready → fails 6 (stateDetail s)) ∧
    (ready → ¬allowed → fails 10
      (match mode with
       | .intra => 0
       | .forward => 1
       | .backward => 2
       | .interpolated => 3)) ∧
    (ready → allowed → ¬scaled → fails 8 4) ∧
    (ready → allowed → scaled → ¬next → fails 7 s.cur.pos.toNat) ∧
    (ready → allowed → scaled → next → ¬vecF → fails 7 s.me.mvf.toNat) ∧
    (ready → allowed → scaled → next → vecF → ¬vecB → fails 7 s.me.mvb.toNat) ∧
    (∀ a, ready → allowed → scaled → next → vecF → vecB → lowestMissing s.memSize (tqmbTouches s mode) a → fails 3 a)

/-! ### Bit sink and entropy coder -/

/-- The bit sink is an append-only sequence of bits (rules R81, R250, R251): appending a string keeps every bit already
in the stream, puts the string's characters after them in order, and writes only the bytes it completes. -/
def Obligations.SinkAppends : Prop :=
  ∀ (s : State) (bits : List Bool), sinkOk s → s.sink.bitpos.toNat + bits.length < 2 ^ 32 →
    let t := s.appended bits
    t.sink.bitpos.toNat = s.sink.bitpos.toNat + bits.length ∧
    (∀ k, k < s.sink.bitpos.toNat → streamBit t k = streamBit s k) ∧
    (∀ k, k < bits.length → streamBit t (s.sink.bitpos.toNat + k) = bits.getD k false) ∧
    sinkOk t ∧
    (∀ a, (a < s.sink.base.toNat + s.sink.bitpos.toNat / 8 ∨
      s.sink.base.toNat + (s.sink.bitpos.toNat + bits.length) / 8 ≤ a) → t.mem.read a = s.mem.read a) ∧
    t = { s with sink := { s.sink with bitpos := t.sink.bitpos, acc := t.sink.acc }, mem := t.mem }

/-- `PUTB` (rules R251, R252, R255): the low `n` bits of the register, most significant first, the two faults, and the
counts that are no command. -/
def Obligations.PutBitsCommand : Prop :=
  (∀ w : Word, opField w = 0x1D → ((w.extractLsb' 0 6).toNat = 0 ∨ 32 < (w.extractLsb' 0 6).toNat) →
    ∀ i, decodeWord w ≠ .ok i) ∧
  ∀ (ra : Reg) (n : BitVec 6) (s : State), 1 ≤ n.toNat → n.toNat ≤ 32 →
    let bits := (List.range n.toNat).map fun k => (s.x ra).getLsbD (n.toNat - 1 - k)
    encodedR 0x1D 0 (regBits ra) 0 (n.setWidth 14) (.putb ra n) ∧
    (sinkAccepts s n.toNat → ∃ t, exec (.putb ra n) s = .next t ∧ emitted s bits t ∧
      t = { s with sink := t.sink, mem := t.mem, cp := BitVec.ofNat 32 (s.cp.toNat + 4) }) ∧
    sinkFaults (.putb ra n) s bits

/-- `ALIGN` (rule R253): zero bits up to the byte boundary, none where the stream is aligned; the stream is then in
memory as a whole. -/
def Obligations.AlignCommand : Prop :=
  decodeWord 0x78000000 = .ok .align ∧
  ∀ s : State,
    let pad := (8 - s.sink.bitpos.toNat % 8) % 8
    (sinkAccepts s pad → ∃ t, exec .align s = .next t ∧ emitted s (List.replicate pad false) t ∧
      t = { s with sink := t.sink, mem := t.mem, cp := BitVec.ofNat 32 (s.cp.toNat + 4) } ∧
      t.sink.bitpos.toNat % 8 = 0 ∧ (sinkOk s → t.sink.acc = 0)) ∧
    sinkFaults .align s (List.replicate pad false)

/-- `FLUSH` (rule R254): the partial byte is stored, the stream is not padded; nothing where there is none; the two
faults in their order. -/
def Obligations.FlushCommand : Prop :=
  decodeWord 0x7C000000 = .ok .flush ∧
  ∀ s : State,
    let index := s.sink.bitpos.toNat / 8
    let a := s.sink.base.toNat + index
    (s.sink.bitpos.toNat % 8 = 0 → exec .flush s = .next { s with cp := BitVec.ofNat 32 (s.cp.toNat + 4) }) ∧
    (s.sink.bitpos.toNat % 8 ≠ 0 → index + 1 ≤ s.sink.limit.toNat → a < s.memSize →
      ∃ t, exec .flush s = .next t ∧ t.mem.read a = s.sink.acc ∧ (∀ b, b ≠ a → t.mem.read b = s.mem.read b) ∧
        t = { s with mem := t.mem, cp := BitVec.ofNat 32 (s.cp.toNat + 4) }) ∧
    (s.sink.bitpos.toNat % 8 ≠ 0 → s.sink.limit.toNat < index + 1 → exec .flush s = .next (faulted s 9 0)) ∧
    (s.sink.bitpos.toNat % 8 ≠ 0 → index + 1 ≤ s.sink.limit.toNat → s.memSize ≤ a →
      exec .flush s = .next (faulted s 3 a))

/-- `ECMB` (rules R261 to R264): the unit's record, field by field, appended; the predictors moved on, the unit counted
and closed; the three faults in their order. -/
def Obligations.EncodeUnit : Prop :=
  decodeWord 0x70000000 = .ok .ecmb ∧
  ∀ s : State,
    let tag := match s.mb.mode with
      | .intra => [true, false]
      | .forward => [true, true]
      | .backward => [false, true, false]
      | .interpolated => [false, true, true]
    let delta := if s.quant.mbq = s.quant.prevq then [false]
      else true :: binInt 6 ((s.quant.mbq.toNat : Int) - s.quant.prevq.toNat)
    let difference := fun mv pred : Word => svlc (lo16s mv - lo16s pred) ++ svlc (hi16s mv - hi16s pred)
    let vectors := match s.mb.mode with
      | .intra => []
      | .forward => difference s.mb.mvf s.mb.pmvf
      | .backward => difference s.mb.mvb s.mb.pmvb
      | .interpolated => difference s.mb.mvf s.mb.pmvf ++ difference s.mb.mvb s.mb.pmvb
    let bits := tag ++ delta ++ vectors ++ blockBits s.qc[0].toList ++ blockBits s.qc[1].toList ++
      blockBits s.qc[2].toList ++ blockBits s.qc[3].toList ++ blockBits s.qc[4].toList ++ blockBits s.qc[5].toList
    (s.frame.uphase = true → sinkAccepts s bits.length → ∃ t, exec .ecmb s = .next t ∧ emitted s bits t ∧
      t.quant = { s.quant with prevq := s.quant.mbq } ∧
      t.mb.pmvf = (match s.mb.mode with
        | .intra => 0
        | .forward | .interpolated => s.mb.mvf
        | .backward => s.mb.pmvf) ∧
      t.mb.pmvb = (match s.mb.mode with
        | .intra => 0
        | .backward | .interpolated => s.mb.mvb
        | .forward => s.mb.pmvb) ∧
      t = { s with
        sink := t.sink, mem := t.mem, quant := t.quant, mb := { s.mb with pmvf := t.mb.pmvf, pmvb := t.mb.pmvb }
        frame := { s.frame with mbcount := s.frame.mbcount + 1, uphase := false }
        cur := { s.cur with valid := false }
        cp := BitVec.ofNat 32 (s.cp.toNat + 4) }) ∧
    (s.frame.uphase = false → exec .ecmb s = .next (faulted s 6 (stateDetail s))) ∧
    (s.frame.uphase = true → sinkFaults .ecmb s bits)

/-- The code of one pair (rules R257, R258): a pair of the table has its code word and a sign bit, any other the escape;
the seventeen code words are prefix-free. The code of a block (rule R256): the codes of its pairs, a pair being a run of
zeros and the level after it, then the end-of-block marker for whatever zeros remain. -/
def Obligations.PairCodes : Prop :=
  (∀ (run : Nat) (v : Int), v ≠ 0 →
    (∀ r ∈ pairTable, r.run = run → r.magnitude = v.natAbs → pairBits run v = r.code ++ [decide (v < 0)]) ∧
    ((∀ r ∈ pairTable, ¬(r.run = run ∧ r.magnitude = v.natAbs)) →
      pairBits run v = [false, false, false, false, false, true] ++ bin 6 run ++ binInt 9 v)) ∧
  ([true, false] :: [false, false, false, false, false, true] :: pairTable.map PairCode.code).Pairwise
    (fun a b => a.isPrefixOf b = false ∧ b.isPrefixOf a = false) ∧
  pairTable.map (fun r => (r.run, r.magnitude, r.code.length, bitsValue r.code)) =
    [(0, 1, 2, 3), (1, 1, 3, 3), (0, 2, 4, 4), (2, 1, 4, 5), (0, 3, 5, 5), (3, 1, 5, 7), (4, 1, 5, 6), (1, 2, 6, 6),
      (5, 1, 6, 7), (6, 1, 6, 5), (7, 1, 6, 4), (0, 4, 7, 6), (2, 2, 7, 4), (8, 1, 7, 7), (9, 1, 7, 5)] ∧
  (∀ (pairs : List (Nat × Int)) (trailing : Nat), (∀ p ∈ pairs, p.2 ≠ 0) →
    blockBits ((pairs.flatMap fun p => List.replicate p.1 0 ++ [p.2]) ++ List.replicate trailing 0) =
      (pairs.flatMap fun p => pairBits p.1 p.2) ++ [true, false])

/-- The block code is self-delimiting (the spec's own inference in `44_entropy_coder.md` section 5): the symmetric
decoder stops exactly at the end of a block's bits, whatever follows them, and returns the block. -/
def Obligations.BlockDecodes : Prop :=
  ∀ (q : List Int) (rest : List Bool), q.length = 64 → (∀ v ∈ q, v.natAbs ≤ 255) →
    decodeBlock (blockBits q ++ rest) = some (q, rest)

/-- The signed variable-length code of rule R260: its index, its length, and that it decodes. -/
def Obligations.SignedCode : Prop :=
  ∀ (v : Int) (rest : List Bool),
    (svlcIndex v : Int) = (if v = 0 then 0 else if 0 < v then 2 * v - 1 else -2 * v) ∧
    (∃ b : Nat, 2 ^ (b - 1) ≤ svlcIndex v + 1 ∧ svlcIndex v + 1 < 2 ^ b ∧
      svlc v = List.replicate (b - 1) false ++ bin b (svlcIndex v + 1)) ∧
    decodeSvlc (svlc v ++ rest) = some (v, rest)

/-- A record is at most 8178 bits (the sentence of `44_entropy_coder.md` section 4), where its levels and vectors are
those the machine can hold. -/
def Obligations.RecordBound : Prop :=
  ∀ s : State, levelsOk s → vectorsOk s → coding s → s.frame.uphase = true → (recordBits s).length ≤ 8178

/-! ### Frame control -/

/-- `FRMBEG` (rules R281 to R284): the header, the per-frame initialisation, and the faults in their order, ConfigFault
with the number of the first check that fails; frame type 3 is no command. -/
def Obligations.BeginFrame : Prop :=
  (∀ w : Word, opField w = 0x20 → (w.extractLsb' 0 2).toNat = 3 → ∀ i, decodeWord w ≠ .ok i) ∧
  ∀ (ftype : FrameType) (s : State),
    let number : Nat := match ftype with
      | .intra => 0
      | .predicted => 1
      | .bidirectional => 2
    let fwdValid := (s.cfg.refs[s.cfg.fwdSel]).valid = true
    let bwdValid := (s.cfg.refs[s.cfg.bwdSel]).valid = true
    let checks : List Prop :=
      [legalDimension (lumaW s), legalDimension (lumaH s), s.cfg.sradius ≠ 0, s.cfg.qinit ≠ 0,
        1 ≤ s.cfg.refWin.toNat ∧ s.cfg.refWin.toNat ≤ 4, ∀ p : Fin 64, s.cfg.qm[p] ≠ 0,
        number ≠ 0 → fwdValid, number = 2 → bwdValid]
    let header := bin 24 (2 ^ 23 + number * 2 ^ 21 + s.cfg.qinit.toNat * 2 ^ 16 + unitsWide s * 2 ^ 8 + unitsHigh s)
    encodedR 0x20 0 0 0 (BitVec.ofNat 14 number) (.frmbeg ftype) ∧
    (s.frame.fs = .awaiting → (∀ c ∈ checks, c) → sinkAccepts s 24 →
      ∃ t, exec (.frmbeg ftype) s = .next t ∧ emitted s header t ∧
        t = { s with
          sink := t.sink
          mem := t.mem
          frame := { s.frame with fs := .selecting, uphase := false, ftype := ftype, mbcount := 0 }
          quant := { s.quant with qscale := s.cfg.qinit, prevq := s.cfg.qinit, dcpy := 0, dcpcb := 0, dcpcr := 0 }
          mb := { s.mb with pmvf := 0, pmvb := 0 }
          cur := { s.cur with valid := false }
          me := { s.me with memode := .intra }
          cp := BitVec.ofNat 32 (s.cp.toNat + 4) }) ∧
    (s.frame.fs ≠ .awaiting → exec (.frmbeg ftype) s = .next (faulted s 6 (stateDetail s))) ∧
    (∀ n : Fin 8, s.frame.fs = .awaiting → (∀ k : Fin 8, k < n → checks.getD k True) → ¬checks.getD n True →
      exec (.frmbeg ftype) s = .next (faulted s 8 (n.val + 1))) ∧
    (s.frame.fs = .awaiting → (∀ c ∈ checks, c) → sinkFaults (.frmbeg ftype) s header)

/-- `FRMEND` (rule R285): the marker and its padding, `FS = 3`, and the faults in their order. -/
def Obligations.EndFrame : Prop :=
  decodeWord 0x84000000 = .ok .frmend ∧
  ∀ s : State,
    let pad := (8 - (s.sink.bitpos.toNat + 3) % 8) % 8
    let bits := [false, false, true] ++ List.replicate pad false
    let ready := s.frame.fs = .encoding ∧ s.frame.uphase = false
    let counted := s.frame.mbcount.toNat = unitsWide s * unitsHigh s
    (ready → counted → sinkAccepts s bits.length → ∃ t, exec .frmend s = .next t ∧ emitted s bits t ∧
      t = { s with
        sink := t.sink
        mem := t.mem
        frame := { s.frame with fs := .complete }
        cp := BitVec.ofNat 32 (s.cp.toNat + 4) } ∧
      t.sink.bitpos.toNat % 8 = 0 ∧ t.sink.acc = 0) ∧
    (¬ready → exec .frmend s = .next (faulted s 6 (stateDetail s))) ∧
    (ready → ¬counted → exec .frmend s = .next (faulted s 7 s.frame.mbcount.toNat)) ∧
    (ready → counted → sinkFaults .frmend s bits)

/-- `FRMNEXT` (rule R286): the reference set as a shift register of the `REFWIN` frames kept last, the frame index, and
the one fault. -/
def Obligations.NextFrame : Prop :=
  ∀ (keep : Bool) (s : State),
    let shifted : Fin 4 → RefSlot := fun i => match i with
      | 0 => ⟨true, s.frame.findex, s.cfg.recY, s.cfg.recCb, s.cfg.recCr⟩
      | 1 => s.cfg.refs[0]
      | 2 => s.cfg.refs[1]
      | 3 => s.cfg.refs[2]
    encodedR 0x22 0 0 0 (if keep = true then 1 else 0) (.frmnext keep) ∧
    (s.frame.fs = .complete → ∃ t, exec (.frmnext keep) s = .next t ∧
      (keep = false → t.cfg.refs = s.cfg.refs) ∧
      (keep = true → ∀ i : Fin 4, t.cfg.refs[i] =
        { shifted i with valid := (shifted i).valid && decide (i.val < s.cfg.refWin.toNat) }) ∧
      t.frame.findex.toNat = (s.frame.findex.toNat + 1) % 2 ^ 16 ∧ sameMemory s t ∧
      t = { s with
        cfg := { s.cfg with refs := t.cfg.refs }
        frame := { s.frame with findex := t.frame.findex, fs := .awaiting }
        cp := BitVec.ofNat 32 (s.cp.toNat + 4) }) ∧
    (s.frame.fs ≠ .complete → exec (.frmnext keep) s = .next (faulted s 6 (stateDetail s)))

/-! ### The host, reset and interrupts -/

/-- Host register accesses by class (rules R25, R321): what is stored, what is refused with `HWERR`, what a read
returns; no read changes anything of the machine. Beside them the host's accesses of one byte of shared memory (rules
R13, R80, R91): the byte returned, the one byte changed, and the stop at an address that does not exist (log 7). -/
def Obligations.HostRegisterAccess : Prop :=
  (∀ (address : Nat) (v : Byte) (s : State),
    (address < s.memSize → hostStep (.readByte address) s = .next { s with
      host := { s.host with lastRead := BitVec.ofNat 32 (s.mem.read address).toNat } }) ∧
    (address < s.memSize → ∃ t, hostStep (.writeByte address v) s = .next t ∧ t.mem.read address = v ∧
      (∀ a, a ≠ address → t.mem.read a = s.mem.read a) ∧ t = { s with mem := t.mem }) ∧
    (s.memSize ≤ address → hostStep (.readByte address) s = .fault (.hostAddressAbsent address) ∧
      hostStep (.writeByte address v) s = .fault (.hostAddressAbsent address))) ∧
  ∀ (n : Nat) (v : Word) (s : State),
    let refused : State := { s with run := { s.run with hwErr := true } }
    (hostStep (.readReg n) s = .next { s with
      host := { s.host with
        lastRead := (match csrOfNumber n with
          | some c => csrRead s c
          | none => 0) } }) ∧
    (csrOfNumber n = none → hostStep (.writeReg n v) s = .next refused) ∧
    (∀ c, csrOfNumber n = some c →
      (csrClass c = .ro → hostStep (.writeReg n v) s = .next refused) ∧
      (csrClass c = .rw ∨ csrClass c = .rwf ∨ csrClass c = .hi → s.run.busy = true →
        hostStep (.writeReg n v) s = .next refused) ∧
      (csrClass c = .rwf → s.frame.fs ≠ .awaiting → hostStep (.writeReg n v) s = .next refused) ∧
      (s.run.busy = false → csrClass c = .rw ∨ csrClass c = .hi ∨ (csrClass c = .rwf ∧ s.frame.fs = .awaiting) →
        ∃ t, hostStep (.writeReg n v) s = .next t ∧ csrRead t c = v &&& implementedBits c ∧
          (∀ c', c' ≠ c → ¬(c = .bitpos ∧ c' = .acc) → csrRead t c' = csrRead s c') ∧
          (c = .bitpos → csrRead t .acc = 0) ∧ t.regs = s.regs ∧ sameMemory s t ∧ t.run = s.run ∧ t.cur = s.cur ∧
          t.qc = s.qc ∧ t.memSize = s.memSize ∧ t.host = s.host))

/-- `CTRL` written with one action bit, and the order of the actions (rule R32). -/
def Obligations.ControlWrite : Prop :=
  ∀ s : State,
    let refused : State := { s with run := { s.run with hwErr := true } }
    let write := fun w : Word => hostStep (.writeReg 0x001 w) s
    write 0 = .next s ∧
    (∀ w, write (w &&& 0x8000001F) = write w) ∧
    write 4 = .next { s with cause := ⟨0, 0, 0⟩, run := { s.run with fault := false, hwErr := false } } ∧
    (s.run.busy = false → s.frame.fs = .awaiting →
      ∃ t, write 8 = .next t ∧ (∀ i : Fin 4, t.cfg.refs[i] = { s.cfg.refs[i] with valid := false }) ∧
        t = { s with cfg := { s.cfg with refs := t.cfg.refs } }) ∧
    (s.run.busy = true ∨ s.frame.fs ≠ .awaiting → write 8 = .next refused) ∧
    (s.run.busy = false → write 16 = .next { s with
      frame := { s.frame with fs := .awaiting, uphase := false }, cur := { s.cur with valid := false } }) ∧
    (s.run.busy = true → write 16 = .next refused) ∧
    (s.run.busy = true → write 2 = .next { s with run := { s.run with stopReq := true } }) ∧
    (s.run.busy = false → write 2 = .next s) ∧
    (s.run.busy = false → s.run.fault = false →
      write 1 = .next { s with run := { s.run with busy := true, halted := false, stopped := false } }) ∧
    (s.run.busy = true ∨ s.run.fault = true → write 1 = .next refused) ∧
    (∀ w : Word, w.getLsbD 31 = false → ∃ a b c d,
      hostStep (.writeReg 0x001 (w &&& 4)) s = .next a ∧ hostStep (.writeReg 0x001 (w &&& 8)) a = .next b ∧
      hostStep (.writeReg 0x001 (w &&& 16)) b = .next c ∧ hostStep (.writeReg 0x001 (w &&& 2)) c = .next d ∧
      hostStep (.writeReg 0x001 (w &&& 1)) d = write w)

/-- Resuming after a fault (rule R306): one write of `CLRFAULT` and `GO` clears the cause registers and runs the engine
at `CP`, which still addresses the faulting command. -/
def Obligations.ResumeAfterFault : Prop :=
  ∀ (s : State) (code v : Nat),
    ∃ t, hostStep (.writeReg 0x001 5) (faulted s code v) = .next t ∧
      t = { s with
        cause := ⟨0, 0, 0⟩
        run := ⟨true, false, false, false, false, false⟩
        irq := { s.irq with status := s.irq.status ||| 2#4 } } ∧ t.cp = s.cp

/-- The interrupt registers and the line (rules R35, R310): enables replaced, pending bits cleared where the written bit
is 1, the line high when an enabled bit is pending. -/
def Obligations.Interrupts : Prop :=
  ∀ (s : State) (w : Word),
    hostStep (.writeReg 0x006 w) s = .next { s with irq := { s.irq with enable := w.setWidth 4 } } ∧
    (∃ t, hostStep (.writeReg 0x007 w) s = .next t ∧ t = { s with irq := { s.irq with status := t.irq.status } } ∧
      ∀ i : Nat, i < 4 → t.irq.status.getLsbD i = (s.irq.status.getLsbD i && !w.getLsbD i)) ∧
    (irqLine s = true ↔ ∃ i : Nat, i < 4 ∧ s.irq.status.getLsbD i = true ∧ s.irq.enable.getLsbD i = true)

/-- Reset (rules R70, R340): both ways of it, in every state; the state it leaves; memory untouched. -/
def Obligations.Reset : Prop :=
  (∀ (s : State) (w : Word), w.getLsbD 31 = true →
    hostStep .resetInput s = .next { State.reset with mem := s.mem, memSize := s.memSize, host := s.host } ∧
    hostStep (.writeReg 0x001 w) s = .next { State.reset with mem := s.mem, memSize := s.memSize, host := s.host }) ∧
  (∀ r : Reg, State.reset.x r = 0) ∧ State.reset.cp = 0 ∧
  State.reset.run = ⟨false, false, false, false, false, false⟩ ∧
  State.reset.flags = ⟨false, false, false, false, false⟩ ∧
  State.reset.frame = ⟨.awaiting, false, .intra, 0, 0⟩ ∧ State.reset.cur.valid = false ∧
  irqLine State.reset = false ∧
  (∀ i : Fin 4, (State.reset.cfg.refs[i]).valid = false) ∧
  (∀ p : Fin 64, State.reset.cfg.qm[p] = 16) ∧
  (∀ k : Fin 256, State.reset.cur.y[k] = 0) ∧
  (∀ k : Fin 64, State.reset.cur.cb[k] = 0 ∧ State.reset.cur.cr[k] = 0) ∧
  (∀ (k : Fin 6) (n : Fin 64), State.reset.qc[k][n] = 0)

/-! ### Invariants -/

/-- Every step keeps memory in canonical form and within `MEMSIZE` (rules R80, R84). The canonical form is the model's
(log 1). -/
def Obligations.MemoryKept : Prop := ∀ s t : State, memoryOk s → step s = .next t → memoryOk t

/-- Every step keeps the run state one of those rule R24 allows, the unused bits of the partial byte 0 and every stored
level representable (rules R24, R53, R63, R223). -/
def Obligations.RunSinkAndLevelsKept : Prop :=
  ∀ s t : State, step s = .next t → (runOk s → runOk t) ∧ (sinkOk s → sinkOk t) ∧ (levelsOk s → levelsOk t)

/-- Every step, of the engine or the host, keeps what an open frame relies on (the spec's own inference "Invariants
while `FS != 0`" in `45_frame_control.md` section 2): the checked configuration, the unit phase and counter, the
unit's position, the range of the vectors. -/
def Obligations.OpenFrameKept : Prop := ∀ s t : State, frameOk s → step s = .next t → frameOk t

/-- The state after reset has every invariant. -/
def Obligations.ResetHasInvariants : Prop :=
  memoryOk State.reset ∧ runOk State.reset ∧ sinkOk State.reset ∧ levelsOk State.reset ∧ frameOk State.reset

end Slice0
end

