-- ==== Sys2Proof/Laws/State.lean ====
section
/-! SUPPORT. One lemma per field per named update of the state, so that no proof unfolds a record update. -/

namespace Sys2Proof.Machine

/-! ### `State.setX`: only the general registers change -/

@[simp] theorem State.setX_cp (s : State) (r : Reg) (v : Word) : (s.setX r v).cp = s.cp := by
  unfold State.setX; split <;> rfl
@[simp] theorem State.setX_flags (s : State) (r : Reg) (v : Word) : (s.setX r v).flags = s.flags := by
  unfold State.setX; split <;> rfl
@[simp] theorem State.setX_run (s : State) (r : Reg) (v : Word) : (s.setX r v).run = s.run := by
  unfold State.setX; split <;> rfl
@[simp] theorem State.setX_cause (s : State) (r : Reg) (v : Word) : (s.setX r v).cause = s.cause := by
  unfold State.setX; split <;> rfl
@[simp] theorem State.setX_irq (s : State) (r : Reg) (v : Word) : (s.setX r v).irq = s.irq := by
  unfold State.setX; split <;> rfl
@[simp] theorem State.setX_frame (s : State) (r : Reg) (v : Word) : (s.setX r v).frame = s.frame := by
  unfold State.setX; split <;> rfl
@[simp] theorem State.setX_cfg (s : State) (r : Reg) (v : Word) : (s.setX r v).cfg = s.cfg := by
  unfold State.setX; split <;> rfl
@[simp] theorem State.setX_me (s : State) (r : Reg) (v : Word) : (s.setX r v).me = s.me := by
  unfold State.setX; split <;> rfl
@[simp] theorem State.setX_cur (s : State) (r : Reg) (v : Word) : (s.setX r v).cur = s.cur := by
  unfold State.setX; split <;> rfl
@[simp] theorem State.setX_quant (s : State) (r : Reg) (v : Word) : (s.setX r v).quant = s.quant := by
  unfold State.setX; split <;> rfl
@[simp] theorem State.setX_mb (s : State) (r : Reg) (v : Word) : (s.setX r v).mb = s.mb := by
  unfold State.setX; split <;> rfl
@[simp] theorem State.setX_qc (s : State) (r : Reg) (v : Word) : (s.setX r v).qc = s.qc := by
  unfold State.setX; split <;> rfl
@[simp] theorem State.setX_sink (s : State) (r : Reg) (v : Word) : (s.setX r v).sink = s.sink := by
  unfold State.setX; split <;> rfl
@[simp] theorem State.setX_mem (s : State) (r : Reg) (v : Word) : (s.setX r v).mem = s.mem := by
  unfold State.setX; split <;> rfl
@[simp] theorem State.setX_memSize (s : State) (r : Reg) (v : Word) : (s.setX r v).memSize = s.memSize := by
  unfold State.setX; split <;> rfl
@[simp] theorem State.setX_host (s : State) (r : Reg) (v : Word) : (s.setX r v).host = s.host := by
  unfold State.setX; split <;> rfl

/-- What a general register reads after a write of another or of the same one (rule R21). -/
theorem State.setX_x (s : State) (r q : Reg) (v : Word) :
    (s.setX r v).x q = if q = 0 then 0 else if q = r then v else s.x q := by
  unfold State.setX State.x
  by_cases hq : q = 0
  · simp [hq]
  · by_cases hr : r = 0
    · simp [hr, hq]
    · by_cases hqr : q = r
      · subst hqr; simp [hq]
      · have h1 : q.val ≠ r.val := fun h => hqr (Fin.ext h)
        have h2 : r.val ≠ q.val := fun h => h1 h.symm
        simp [hr, hq, hqr, h2]

/-- `R0` reads as 0 in every state (rule R21). -/
@[simp] theorem State.x_zero (s : State) : s.x 0 = 0 := by simp [State.x]

/-- A register reads the same in states with the same register file. -/
theorem State.x_congr {s t : State} (h : t.regs = s.regs) (r : Reg) : t.x r = s.x r := by simp [State.x, h]

/-- A write of a register is a change of the register file alone. -/
theorem State.setX_eq (s : State) (r : Reg) (v : Word) : s.setX r v = { s with regs := (s.setX r v).regs } := by
  unfold State.setX; split <;> rfl

/-! ### `State.advance` -/

@[simp] theorem State.advance_regs (s : State) : s.advance.regs = s.regs := rfl
@[simp] theorem State.advance_cp (s : State) : s.advance.cp = nextCp s := rfl
@[simp] theorem State.advance_flags (s : State) : s.advance.flags = s.flags := rfl
@[simp] theorem State.advance_run (s : State) : s.advance.run = s.run := rfl
@[simp] theorem State.advance_cause (s : State) : s.advance.cause = s.cause := rfl
@[simp] theorem State.advance_irq (s : State) : s.advance.irq = s.irq := rfl
@[simp] theorem State.advance_frame (s : State) : s.advance.frame = s.frame := rfl
@[simp] theorem State.advance_cfg (s : State) : s.advance.cfg = s.cfg := rfl
@[simp] theorem State.advance_me (s : State) : s.advance.me = s.me := rfl
@[simp] theorem State.advance_cur (s : State) : s.advance.cur = s.cur := rfl
@[simp] theorem State.advance_quant (s : State) : s.advance.quant = s.quant := rfl
@[simp] theorem State.advance_mb (s : State) : s.advance.mb = s.mb := rfl
@[simp] theorem State.advance_qc (s : State) : s.advance.qc = s.qc := rfl
@[simp] theorem State.advance_sink (s : State) : s.advance.sink = s.sink := rfl
@[simp] theorem State.advance_mem (s : State) : s.advance.mem = s.mem := rfl
@[simp] theorem State.advance_memSize (s : State) : s.advance.memSize = s.memSize := rfl
@[simp] theorem State.advance_host (s : State) : s.advance.host = s.host := rfl

/-! ### `State.raiseIrq` -/

@[simp] theorem State.raiseIrq_regs (s : State) (b : BitVec 4) : (s.raiseIrq b).regs = s.regs := rfl
@[simp] theorem State.raiseIrq_cp (s : State) (b : BitVec 4) : (s.raiseIrq b).cp = s.cp := rfl
@[simp] theorem State.raiseIrq_flags (s : State) (b : BitVec 4) : (s.raiseIrq b).flags = s.flags := rfl
@[simp] theorem State.raiseIrq_run (s : State) (b : BitVec 4) : (s.raiseIrq b).run = s.run := rfl
@[simp] theorem State.raiseIrq_cause (s : State) (b : BitVec 4) : (s.raiseIrq b).cause = s.cause := rfl
@[simp] theorem State.raiseIrq_irq (s : State) (b : BitVec 4) :
    (s.raiseIrq b).irq = { s.irq with status := s.irq.status ||| b } := rfl
@[simp] theorem State.raiseIrq_frame (s : State) (b : BitVec 4) : (s.raiseIrq b).frame = s.frame := rfl
@[simp] theorem State.raiseIrq_cfg (s : State) (b : BitVec 4) : (s.raiseIrq b).cfg = s.cfg := rfl
@[simp] theorem State.raiseIrq_me (s : State) (b : BitVec 4) : (s.raiseIrq b).me = s.me := rfl
@[simp] theorem State.raiseIrq_cur (s : State) (b : BitVec 4) : (s.raiseIrq b).cur = s.cur := rfl
@[simp] theorem State.raiseIrq_quant (s : State) (b : BitVec 4) : (s.raiseIrq b).quant = s.quant := rfl
@[simp] theorem State.raiseIrq_mb (s : State) (b : BitVec 4) : (s.raiseIrq b).mb = s.mb := rfl
@[simp] theorem State.raiseIrq_qc (s : State) (b : BitVec 4) : (s.raiseIrq b).qc = s.qc := rfl
@[simp] theorem State.raiseIrq_sink (s : State) (b : BitVec 4) : (s.raiseIrq b).sink = s.sink := rfl
@[simp] theorem State.raiseIrq_mem (s : State) (b : BitVec 4) : (s.raiseIrq b).mem = s.mem := rfl
@[simp] theorem State.raiseIrq_memSize (s : State) (b : BitVec 4) : (s.raiseIrq b).memSize = s.memSize := rfl
@[simp] theorem State.raiseIrq_host (s : State) (b : BitVec 4) : (s.raiseIrq b).host = s.host := rfl

/-! ### `State.takeFault` -/

@[simp] theorem State.takeFault_regs (s : State) (t : Trap) : (s.takeFault t).regs = s.regs := rfl
@[simp] theorem State.takeFault_cp (s : State) (t : Trap) : (s.takeFault t).cp = s.cp := rfl
@[simp] theorem State.takeFault_flags (s : State) (t : Trap) : (s.takeFault t).flags = s.flags := rfl
@[simp] theorem State.takeFault_run (s : State) (t : Trap) :
    (s.takeFault t).run = { s.run with fault := true, busy := false, stopReq := false } := rfl
@[simp] theorem State.takeFault_cause (s : State) (t : Trap) :
    (s.takeFault t).cause = ⟨faultNumber t.code, s.cp, BitVec.ofNat 32 t.info⟩ := rfl
@[simp] theorem State.takeFault_irq (s : State) (t : Trap) :
    (s.takeFault t).irq = { s.irq with status := s.irq.status ||| irqFault } := rfl
@[simp] theorem State.takeFault_frame (s : State) (t : Trap) : (s.takeFault t).frame = s.frame := rfl
@[simp] theorem State.takeFault_cfg (s : State) (t : Trap) : (s.takeFault t).cfg = s.cfg := rfl
@[simp] theorem State.takeFault_me (s : State) (t : Trap) : (s.takeFault t).me = s.me := rfl
@[simp] theorem State.takeFault_cur (s : State) (t : Trap) : (s.takeFault t).cur = s.cur := rfl
@[simp] theorem State.takeFault_quant (s : State) (t : Trap) : (s.takeFault t).quant = s.quant := rfl
@[simp] theorem State.takeFault_mb (s : State) (t : Trap) : (s.takeFault t).mb = s.mb := rfl
@[simp] theorem State.takeFault_qc (s : State) (t : Trap) : (s.takeFault t).qc = s.qc := rfl
@[simp] theorem State.takeFault_sink (s : State) (t : Trap) : (s.takeFault t).sink = s.sink := rfl
@[simp] theorem State.takeFault_mem (s : State) (t : Trap) : (s.takeFault t).mem = s.mem := rfl
@[simp] theorem State.takeFault_memSize (s : State) (t : Trap) : (s.takeFault t).memSize = s.memSize := rfl
@[simp] theorem State.takeFault_host (s : State) (t : Trap) : (s.takeFault t).host = s.host := rfl

/-! ### `State.takeStop` -/

@[simp] theorem State.takeStop_regs (s : State) : s.takeStop.regs = s.regs := rfl
@[simp] theorem State.takeStop_cp (s : State) : s.takeStop.cp = s.cp := rfl
@[simp] theorem State.takeStop_flags (s : State) : s.takeStop.flags = s.flags := rfl
@[simp] theorem State.takeStop_run (s : State) :
    s.takeStop.run = { s.run with busy := false, stopped := true, stopReq := false } := rfl
@[simp] theorem State.takeStop_cause (s : State) : s.takeStop.cause = s.cause := rfl
@[simp] theorem State.takeStop_irq (s : State) :
    s.takeStop.irq = { s.irq with status := s.irq.status ||| irqStopped } := rfl
@[simp] theorem State.takeStop_frame (s : State) : s.takeStop.frame = s.frame := rfl
@[simp] theorem State.takeStop_cfg (s : State) : s.takeStop.cfg = s.cfg := rfl
@[simp] theorem State.takeStop_me (s : State) : s.takeStop.me = s.me := rfl
@[simp] theorem State.takeStop_cur (s : State) : s.takeStop.cur = s.cur := rfl
@[simp] theorem State.takeStop_quant (s : State) : s.takeStop.quant = s.quant := rfl
@[simp] theorem State.takeStop_mb (s : State) : s.takeStop.mb = s.mb := rfl
@[simp] theorem State.takeStop_qc (s : State) : s.takeStop.qc = s.qc := rfl
@[simp] theorem State.takeStop_sink (s : State) : s.takeStop.sink = s.sink := rfl
@[simp] theorem State.takeStop_mem (s : State) : s.takeStop.mem = s.mem := rfl
@[simp] theorem State.takeStop_memSize (s : State) : s.takeStop.memSize = s.memSize := rfl
@[simp] theorem State.takeStop_host (s : State) : s.takeStop.host = s.host := rfl

/-! ### `State.clearFault` -/

@[simp] theorem State.clearFault_regs (s : State) : s.clearFault.regs = s.regs := rfl
@[simp] theorem State.clearFault_cp (s : State) : s.clearFault.cp = s.cp := rfl
@[simp] theorem State.clearFault_flags (s : State) : s.clearFault.flags = s.flags := rfl
@[simp] theorem State.clearFault_run (s : State) :
    s.clearFault.run = { s.run with fault := false, hwErr := false } := rfl
@[simp] theorem State.clearFault_cause (s : State) : s.clearFault.cause = ⟨0, 0, 0⟩ := rfl
@[simp] theorem State.clearFault_irq (s : State) : s.clearFault.irq = s.irq := rfl
@[simp] theorem State.clearFault_frame (s : State) : s.clearFault.frame = s.frame := rfl
@[simp] theorem State.clearFault_cfg (s : State) : s.clearFault.cfg = s.cfg := rfl
@[simp] theorem State.clearFault_me (s : State) : s.clearFault.me = s.me := rfl
@[simp] theorem State.clearFault_cur (s : State) : s.clearFault.cur = s.cur := rfl
@[simp] theorem State.clearFault_quant (s : State) : s.clearFault.quant = s.quant := rfl
@[simp] theorem State.clearFault_mb (s : State) : s.clearFault.mb = s.mb := rfl
@[simp] theorem State.clearFault_qc (s : State) : s.clearFault.qc = s.qc := rfl
@[simp] theorem State.clearFault_sink (s : State) : s.clearFault.sink = s.sink := rfl
@[simp] theorem State.clearFault_mem (s : State) : s.clearFault.mem = s.mem := rfl
@[simp] theorem State.clearFault_memSize (s : State) : s.clearFault.memSize = s.memSize := rfl
@[simp] theorem State.clearFault_host (s : State) : s.clearFault.host = s.host := rfl

/-! ### `State.startEngine` -/

@[simp] theorem State.startEngine_regs (s : State) : s.startEngine.regs = s.regs := rfl
@[simp] theorem State.startEngine_cp (s : State) : s.startEngine.cp = s.cp := rfl
@[simp] theorem State.startEngine_flags (s : State) : s.startEngine.flags = s.flags := rfl
@[simp] theorem State.startEngine_run (s : State) :
    s.startEngine.run = { s.run with busy := true, halted := false, stopped := false } := rfl
@[simp] theorem State.startEngine_cause (s : State) : s.startEngine.cause = s.cause := rfl
@[simp] theorem State.startEngine_irq (s : State) : s.startEngine.irq = s.irq := rfl
@[simp] theorem State.startEngine_frame (s : State) : s.startEngine.frame = s.frame := rfl
@[simp] theorem State.startEngine_cfg (s : State) : s.startEngine.cfg = s.cfg := rfl
@[simp] theorem State.startEngine_me (s : State) : s.startEngine.me = s.me := rfl
@[simp] theorem State.startEngine_cur (s : State) : s.startEngine.cur = s.cur := rfl
@[simp] theorem State.startEngine_quant (s : State) : s.startEngine.quant = s.quant := rfl
@[simp] theorem State.startEngine_mb (s : State) : s.startEngine.mb = s.mb := rfl
@[simp] theorem State.startEngine_qc (s : State) : s.startEngine.qc = s.qc := rfl
@[simp] theorem State.startEngine_sink (s : State) : s.startEngine.sink = s.sink := rfl
@[simp] theorem State.startEngine_mem (s : State) : s.startEngine.mem = s.mem := rfl
@[simp] theorem State.startEngine_memSize (s : State) : s.startEngine.memSize = s.memSize := rfl
@[simp] theorem State.startEngine_host (s : State) : s.startEngine.host = s.host := rfl

/-! ### `State.hostError` -/

@[simp] theorem State.hostError_regs (s : State) : s.hostError.regs = s.regs := rfl
@[simp] theorem State.hostError_cp (s : State) : s.hostError.cp = s.cp := rfl
@[simp] theorem State.hostError_flags (s : State) : s.hostError.flags = s.flags := rfl
@[simp] theorem State.hostError_run (s : State) : s.hostError.run = { s.run with hwErr := true } := rfl
@[simp] theorem State.hostError_cause (s : State) : s.hostError.cause = s.cause := rfl
@[simp] theorem State.hostError_irq (s : State) : s.hostError.irq = s.irq := rfl
@[simp] theorem State.hostError_frame (s : State) : s.hostError.frame = s.frame := rfl
@[simp] theorem State.hostError_cfg (s : State) : s.hostError.cfg = s.cfg := rfl
@[simp] theorem State.hostError_me (s : State) : s.hostError.me = s.me := rfl
@[simp] theorem State.hostError_cur (s : State) : s.hostError.cur = s.cur := rfl
@[simp] theorem State.hostError_quant (s : State) : s.hostError.quant = s.quant := rfl
@[simp] theorem State.hostError_mb (s : State) : s.hostError.mb = s.mb := rfl
@[simp] theorem State.hostError_qc (s : State) : s.hostError.qc = s.qc := rfl
@[simp] theorem State.hostError_sink (s : State) : s.hostError.sink = s.sink := rfl
@[simp] theorem State.hostError_mem (s : State) : s.hostError.mem = s.mem := rfl
@[simp] theorem State.hostError_memSize (s : State) : s.hostError.memSize = s.memSize := rfl
@[simp] theorem State.hostError_host (s : State) : s.hostError.host = s.host := rfl

/-! ### `State.hostSees` -/

@[simp] theorem State.hostSees_regs (s : State) (w : Word) : (s.hostSees w).regs = s.regs := rfl
@[simp] theorem State.hostSees_cp (s : State) (w : Word) : (s.hostSees w).cp = s.cp := rfl
@[simp] theorem State.hostSees_flags (s : State) (w : Word) : (s.hostSees w).flags = s.flags := rfl
@[simp] theorem State.hostSees_run (s : State) (w : Word) : (s.hostSees w).run = s.run := rfl
@[simp] theorem State.hostSees_cause (s : State) (w : Word) : (s.hostSees w).cause = s.cause := rfl
@[simp] theorem State.hostSees_irq (s : State) (w : Word) : (s.hostSees w).irq = s.irq := rfl
@[simp] theorem State.hostSees_frame (s : State) (w : Word) : (s.hostSees w).frame = s.frame := rfl
@[simp] theorem State.hostSees_cfg (s : State) (w : Word) : (s.hostSees w).cfg = s.cfg := rfl
@[simp] theorem State.hostSees_me (s : State) (w : Word) : (s.hostSees w).me = s.me := rfl
@[simp] theorem State.hostSees_cur (s : State) (w : Word) : (s.hostSees w).cur = s.cur := rfl
@[simp] theorem State.hostSees_quant (s : State) (w : Word) : (s.hostSees w).quant = s.quant := rfl
@[simp] theorem State.hostSees_mb (s : State) (w : Word) : (s.hostSees w).mb = s.mb := rfl
@[simp] theorem State.hostSees_qc (s : State) (w : Word) : (s.hostSees w).qc = s.qc := rfl
@[simp] theorem State.hostSees_sink (s : State) (w : Word) : (s.hostSees w).sink = s.sink := rfl
@[simp] theorem State.hostSees_mem (s : State) (w : Word) : (s.hostSees w).mem = s.mem := rfl
@[simp] theorem State.hostSees_memSize (s : State) (w : Word) : (s.hostSees w).memSize = s.memSize := rfl
@[simp] theorem State.hostSees_host (s : State) (w : Word) :
    (s.hostSees w).host = { s.host with lastRead := w } := rfl

/-! ### `State.popTurn` -/

@[simp] theorem State.popTurn_regs (s : State) : s.popTurn.regs = s.regs := rfl
@[simp] theorem State.popTurn_cp (s : State) : s.popTurn.cp = s.cp := rfl
@[simp] theorem State.popTurn_flags (s : State) : s.popTurn.flags = s.flags := rfl
@[simp] theorem State.popTurn_run (s : State) : s.popTurn.run = s.run := rfl
@[simp] theorem State.popTurn_cause (s : State) : s.popTurn.cause = s.cause := rfl
@[simp] theorem State.popTurn_irq (s : State) : s.popTurn.irq = s.irq := rfl
@[simp] theorem State.popTurn_frame (s : State) : s.popTurn.frame = s.frame := rfl
@[simp] theorem State.popTurn_cfg (s : State) : s.popTurn.cfg = s.cfg := rfl
@[simp] theorem State.popTurn_me (s : State) : s.popTurn.me = s.me := rfl
@[simp] theorem State.popTurn_cur (s : State) : s.popTurn.cur = s.cur := rfl
@[simp] theorem State.popTurn_quant (s : State) : s.popTurn.quant = s.quant := rfl
@[simp] theorem State.popTurn_mb (s : State) : s.popTurn.mb = s.mb := rfl
@[simp] theorem State.popTurn_qc (s : State) : s.popTurn.qc = s.qc := rfl
@[simp] theorem State.popTurn_sink (s : State) : s.popTurn.sink = s.sink := rfl
@[simp] theorem State.popTurn_mem (s : State) : s.popTurn.mem = s.mem := rfl
@[simp] theorem State.popTurn_memSize (s : State) : s.popTurn.memSize = s.memSize := rfl
@[simp] theorem State.popTurn_host (s : State) : s.popTurn.host = { s.host with script := s.host.script.tail } := rfl

/-! ### `State.resetEngine` -/

theorem State.resetEngine_regs (s : State) : s.resetEngine.regs = State.reset.regs := rfl
theorem State.resetEngine_cp (s : State) : s.resetEngine.cp = State.reset.cp := rfl
theorem State.resetEngine_flags (s : State) : s.resetEngine.flags = State.reset.flags := rfl
theorem State.resetEngine_run (s : State) : s.resetEngine.run = State.reset.run := rfl
theorem State.resetEngine_cause (s : State) : s.resetEngine.cause = State.reset.cause := rfl
theorem State.resetEngine_irq (s : State) : s.resetEngine.irq = State.reset.irq := rfl
theorem State.resetEngine_frame (s : State) : s.resetEngine.frame = State.reset.frame := rfl
theorem State.resetEngine_cfg (s : State) : s.resetEngine.cfg = State.reset.cfg := rfl
theorem State.resetEngine_me (s : State) : s.resetEngine.me = State.reset.me := rfl
theorem State.resetEngine_cur (s : State) : s.resetEngine.cur = State.reset.cur := rfl
theorem State.resetEngine_quant (s : State) : s.resetEngine.quant = State.reset.quant := rfl
theorem State.resetEngine_mb (s : State) : s.resetEngine.mb = State.reset.mb := rfl
theorem State.resetEngine_qc (s : State) : s.resetEngine.qc = State.reset.qc := rfl
theorem State.resetEngine_sink (s : State) : s.resetEngine.sink = State.reset.sink := rfl
@[simp] theorem State.resetEngine_mem (s : State) : s.resetEngine.mem = s.mem := rfl
@[simp] theorem State.resetEngine_memSize (s : State) : s.resetEngine.memSize = s.memSize := rfl
@[simp] theorem State.resetEngine_host (s : State) : s.resetEngine.host = s.host := rfl

/-! ### `State.appended` -/

@[simp] theorem State.appended_regs (s : State) (l : List Bool) : (s.appended l).regs = s.regs := rfl
@[simp] theorem State.appended_cp (s : State) (l : List Bool) : (s.appended l).cp = s.cp := rfl
@[simp] theorem State.appended_flags (s : State) (l : List Bool) : (s.appended l).flags = s.flags := rfl
@[simp] theorem State.appended_run (s : State) (l : List Bool) : (s.appended l).run = s.run := rfl
@[simp] theorem State.appended_cause (s : State) (l : List Bool) : (s.appended l).cause = s.cause := rfl
@[simp] theorem State.appended_irq (s : State) (l : List Bool) : (s.appended l).irq = s.irq := rfl
@[simp] theorem State.appended_frame (s : State) (l : List Bool) : (s.appended l).frame = s.frame := rfl
@[simp] theorem State.appended_cfg (s : State) (l : List Bool) : (s.appended l).cfg = s.cfg := rfl
@[simp] theorem State.appended_me (s : State) (l : List Bool) : (s.appended l).me = s.me := rfl
@[simp] theorem State.appended_cur (s : State) (l : List Bool) : (s.appended l).cur = s.cur := rfl
@[simp] theorem State.appended_quant (s : State) (l : List Bool) : (s.appended l).quant = s.quant := rfl
@[simp] theorem State.appended_mb (s : State) (l : List Bool) : (s.appended l).mb = s.mb := rfl
@[simp] theorem State.appended_qc (s : State) (l : List Bool) : (s.appended l).qc = s.qc := rfl
@[simp] theorem State.appended_sink (s : State) (l : List Bool) :
    (s.appended l).sink = (appendBits (s.sink, s.mem) l).1 := rfl
@[simp] theorem State.appended_mem (s : State) (l : List Bool) :
    (s.appended l).mem = (appendBits (s.sink, s.mem) l).2 := rfl
@[simp] theorem State.appended_memSize (s : State) (l : List Bool) : (s.appended l).memSize = s.memSize := rfl
@[simp] theorem State.appended_host (s : State) (l : List Bool) : (s.appended l).host = s.host := rfl

/-! ### `setSlot` -/

@[simp] theorem setSlot_regs (s : State) (i : Fin 4) (r : RefSlot) : (setSlot s i r).regs = s.regs := rfl
@[simp] theorem setSlot_cp (s : State) (i : Fin 4) (r : RefSlot) : (setSlot s i r).cp = s.cp := rfl
@[simp] theorem setSlot_flags (s : State) (i : Fin 4) (r : RefSlot) : (setSlot s i r).flags = s.flags := rfl
@[simp] theorem setSlot_run (s : State) (i : Fin 4) (r : RefSlot) : (setSlot s i r).run = s.run := rfl
@[simp] theorem setSlot_cause (s : State) (i : Fin 4) (r : RefSlot) : (setSlot s i r).cause = s.cause := rfl
@[simp] theorem setSlot_irq (s : State) (i : Fin 4) (r : RefSlot) : (setSlot s i r).irq = s.irq := rfl
@[simp] theorem setSlot_frame (s : State) (i : Fin 4) (r : RefSlot) : (setSlot s i r).frame = s.frame := rfl
@[simp] theorem setSlot_cfg (s : State) (i : Fin 4) (r : RefSlot) :
    (setSlot s i r).cfg = { s.cfg with refs := s.cfg.refs.set i r } := rfl
@[simp] theorem setSlot_me (s : State) (i : Fin 4) (r : RefSlot) : (setSlot s i r).me = s.me := rfl
@[simp] theorem setSlot_cur (s : State) (i : Fin 4) (r : RefSlot) : (setSlot s i r).cur = s.cur := rfl
@[simp] theorem setSlot_quant (s : State) (i : Fin 4) (r : RefSlot) : (setSlot s i r).quant = s.quant := rfl
@[simp] theorem setSlot_mb (s : State) (i : Fin 4) (r : RefSlot) : (setSlot s i r).mb = s.mb := rfl
@[simp] theorem setSlot_qc (s : State) (i : Fin 4) (r : RefSlot) : (setSlot s i r).qc = s.qc := rfl
@[simp] theorem setSlot_sink (s : State) (i : Fin 4) (r : RefSlot) : (setSlot s i r).sink = s.sink := rfl
@[simp] theorem setSlot_mem (s : State) (i : Fin 4) (r : RefSlot) : (setSlot s i r).mem = s.mem := rfl
@[simp] theorem setSlot_memSize (s : State) (i : Fin 4) (r : RefSlot) : (setSlot s i r).memSize = s.memSize := rfl
@[simp] theorem setSlot_host (s : State) (i : Fin 4) (r : RefSlot) : (setSlot s i r).host = s.host := rfl

end Sys2Proof.Machine
end

