-- ==== Sys2Proof/Laws/Csr.lean ====
section
/-! SUPPORT. What a stored register value leaves alone (rules R25, R155). -/

namespace Sys2Proof.Machine

/-- A stored register value reaches no general register, no run state, no cause or interrupt register, no buffer, no
level, no byte of memory, and nothing of the host. -/
theorem csrStore_frame (s : State) (c : Csr) (v : Word) :
    (csrStore s c v).regs = s.regs ∧ (csrStore s c v).run = s.run ∧ (csrStore s c v).cause = s.cause ∧
    (csrStore s c v).irq = s.irq ∧ (csrStore s c v).cur = s.cur ∧ (csrStore s c v).qc = s.qc ∧
    (csrStore s c v).mb = s.mb ∧ (csrStore s c v).mem = s.mem ∧ (csrStore s c v).memSize = s.memSize ∧
    (csrStore s c v).host = s.host := by
  cases c <;> exact ⟨rfl, rfl, rfl, rfl, rfl, rfl, rfl, rfl, rfl, rfl⟩

/-- Of the frame's progress, a stored register value reaches the frame index alone. -/
theorem csrStore_frameRegs (s : State) (c : Csr) (v : Word) :
    (csrStore s c v).frame = { s.frame with findex := (csrStore s c v).frame.findex } := by
  cases c <;> rfl

/-- The configuration changes only by a store to a frame-locked register. -/
theorem csrStore_cfg (s : State) (c : Csr) (v : Word) (h : csrClass c ≠ .rwf) : (csrStore s c v).cfg = s.cfg := by
  cases c <;> first | rfl | exact absurd rfl h

/-- The sink's registers change only by a store to a frame-locked register. -/
theorem csrStore_sink (s : State) (c : Csr) (v : Word) (h : csrClass c ≠ .rwf) : (csrStore s c v).sink = s.sink := by
  cases c <;> first | rfl | exact absurd rfl h

/-- `CP` changes only by a store to itself. -/
theorem csrStore_cp (s : State) (c : Csr) (v : Word) (h : c ≠ .cp) : (csrStore s c v).cp = s.cp := by
  cases c <;> first | rfl | exact absurd rfl h

end Sys2Proof.Machine
end

