-- ==== Sys2Proof/Laws/Decode.lean ====
section
/-! SUPPORT. Fields of encoded words, words taken apart into fields, bytes put together again. -/

namespace Sys2Proof

/-! ### Register fields -/

@[simp] theorem regOf_regBits (r : Reg) : regOf (regBits r) = r := by
  apply Fin.ext; simp [regOf, regBits]

@[simp] theorem regBits_regOf (b : BitVec 4) : regBits (regOf b) = b := by
  apply BitVec.eq_of_toNat_eq; simp [regOf, regBits]

/-! ### Fields of a format (rule R111) -/

section Formats

variable (op : BitVec 6) (rd ra rb : BitVec 4) (m : BitVec 14) (imm : BitVec 16) (off : BitVec 22)

@[simp] theorem opField_formatR : opField (formatR op rd ra rb m) = op := by
  apply BitVec.eq_of_getLsbD_eq
  intro k hk
  simp only [opField, formatR, BitVec.getLsbD_extractLsb', BitVec.getLsbD_append, hk, decide_true, Bool.true_and]
  repeat' split
  all_goals first | omega | (congr 1; omega)

@[simp] theorem rdField_formatR : rdField (formatR op rd ra rb m) = rd := by
  apply BitVec.eq_of_getLsbD_eq
  intro k hk
  simp only [rdField, formatR, BitVec.getLsbD_extractLsb', BitVec.getLsbD_append, hk, decide_true, Bool.true_and]
  repeat' split
  all_goals first | omega | (congr 1; omega)

@[simp] theorem raField_formatR : raField (formatR op rd ra rb m) = ra := by
  apply BitVec.eq_of_getLsbD_eq
  intro k hk
  simp only [raField, formatR, BitVec.getLsbD_extractLsb', BitVec.getLsbD_append, hk, decide_true, Bool.true_and]
  repeat' split
  all_goals first | omega | (congr 1; omega)

@[simp] theorem rbField_formatR : rbField (formatR op rd ra rb m) = rb := by
  apply BitVec.eq_of_getLsbD_eq
  intro k hk
  simp only [rbField, formatR, BitVec.getLsbD_extractLsb', BitVec.getLsbD_append, hk, decide_true, Bool.true_and]
  repeat' split
  all_goals first | omega | (congr 1; omega)

@[simp] theorem mField_formatR : mField (formatR op rd ra rb m) = m := by
  apply BitVec.eq_of_getLsbD_eq
  intro k hk
  simp only [mField, formatR, BitVec.getLsbD_extractLsb', BitVec.getLsbD_append, hk, decide_true, Bool.true_and]
  repeat' split
  all_goals first | omega | (congr 1; omega)

@[simp] theorem opField_formatI : opField (formatI op rd ra imm) = op := by
  apply BitVec.eq_of_getLsbD_eq
  intro k hk
  simp only [opField, formatI, BitVec.getLsbD_extractLsb', BitVec.getLsbD_append, hk, decide_true, Bool.true_and]
  repeat' split
  all_goals first | omega | (congr 1; omega)

@[simp] theorem rdField_formatI : rdField (formatI op rd ra imm) = rd := by
  apply BitVec.eq_of_getLsbD_eq
  intro k hk
  simp only [rdField, formatI, BitVec.getLsbD_extractLsb', BitVec.getLsbD_append, hk, decide_true, Bool.true_and]
  repeat' split
  all_goals first | omega | (congr 1; omega)

@[simp] theorem raField_formatI : raField (formatI op rd ra imm) = ra := by
  apply BitVec.eq_of_getLsbD_eq
  intro k hk
  simp only [raField, formatI, BitVec.getLsbD_extractLsb', BitVec.getLsbD_append, hk, decide_true, Bool.true_and]
  repeat' split
  all_goals first | omega | (congr 1; omega)

@[simp] theorem zField_formatI : zField (formatI op rd ra imm) = 0 := by
  apply BitVec.eq_of_getLsbD_eq
  intro k hk
  simp only [zField, formatI, BitVec.getLsbD_extractLsb', BitVec.getLsbD_append, hk, decide_true, Bool.true_and]
  repeat' split
  all_goals first | omega | simp

@[simp] theorem immField_formatI : immField (formatI op rd ra imm) = imm := by
  apply BitVec.eq_of_getLsbD_eq
  intro k hk
  simp only [immField, formatI, BitVec.getLsbD_extractLsb', BitVec.getLsbD_append, hk, decide_true, Bool.true_and]
  repeat' split
  all_goals first | omega | (congr 1; omega)

@[simp] theorem opField_formatB : opField (formatB op rd off) = op := by
  apply BitVec.eq_of_getLsbD_eq
  intro k hk
  simp only [opField, formatB, BitVec.getLsbD_extractLsb', BitVec.getLsbD_append, hk, decide_true, Bool.true_and]
  repeat' split
  all_goals first | omega | (congr 1; omega)

@[simp] theorem rdField_formatB : rdField (formatB op rd off) = rd := by
  apply BitVec.eq_of_getLsbD_eq
  intro k hk
  simp only [rdField, formatB, BitVec.getLsbD_extractLsb', BitVec.getLsbD_append, hk, decide_true, Bool.true_and]
  repeat' split
  all_goals first | omega | (congr 1; omega)

@[simp] theorem offField_formatB : offField (formatB op rd off) = off := by
  apply BitVec.eq_of_getLsbD_eq
  intro k hk
  simp only [offField, formatB, BitVec.getLsbD_extractLsb', BitVec.getLsbD_append, hk, decide_true, Bool.true_and]
  repeat' split
  all_goals first | omega | (congr 1; omega)

@[simp] theorem opField_formatN : opField (formatN op) = op := by
  apply BitVec.eq_of_getLsbD_eq
  intro k hk
  simp only [opField, formatN, BitVec.getLsbD_extractLsb', BitVec.getLsbD_append, hk, decide_true, Bool.true_and]
  repeat' split
  all_goals first | omega | (congr 1; omega)

@[simp] theorem restField_formatN : restField (formatN op) = 0 := by
  apply BitVec.eq_of_getLsbD_eq
  intro k hk
  simp only [restField, formatN, BitVec.getLsbD_extractLsb', BitVec.getLsbD_append, hk, decide_true, Bool.true_and]
  repeat' split
  all_goals first | omega | simp

end Formats

/-! ### A word is its fields -/

theorem word_eq_formatR (w : Word) : formatR (opField w) (rdField w) (raField w) (rbField w) (mField w) = w := by
  apply BitVec.eq_of_getLsbD_eq
  intro k hk
  simp only [formatR, opField, rdField, raField, rbField, mField, BitVec.getLsbD_append, BitVec.getLsbD_extractLsb']
  repeat' split
  all_goals (rw [decide_eq_true (by omega), Bool.true_and]; congr 1; omega)

theorem word_eq_formatB (w : Word) : formatB (opField w) (rdField w) (offField w) = w := by
  apply BitVec.eq_of_getLsbD_eq
  intro k hk
  simp only [formatB, opField, rdField, offField, BitVec.getLsbD_append, BitVec.getLsbD_extractLsb']
  repeat' split
  all_goals (rw [decide_eq_true (by omega), Bool.true_and]; congr 1; omega)

/-- A word with 0 in bits 17:16 is a word of format I. -/
theorem word_eq_formatI (w : Word) (h : zField w = 0) :
    formatI (opField w) (rdField w) (raField w) (immField w) = w := by
  have h' : zField w = 0#2 := h
  rw [formatI, ← h']
  apply BitVec.eq_of_getLsbD_eq
  intro k hk
  simp only [opField, rdField, raField, zField, immField, BitVec.getLsbD_append, BitVec.getLsbD_extractLsb']
  repeat' split
  all_goals (rw [decide_eq_true (by omega), Bool.true_and]; congr 1; omega)

/-- A word with 0 in bits 25:0 is a word of format N. -/
theorem word_eq_formatN (w : Word) (h : restField w = 0) : formatN (opField w) = w := by
  have h' : restField w = 0#26 := h
  rw [formatN, ← h']
  apply BitVec.eq_of_getLsbD_eq
  intro k hk
  simp only [opField, restField, BitVec.getLsbD_append, BitVec.getLsbD_extractLsb']
  repeat' split
  all_goals (rw [decide_eq_true (by omega), Bool.true_and]; congr 1; omega)

/-! ### Bytes of a word (rule R81a) -/

theorem wordOfBytes_bytesOfWord (w : Word) :
    wordOfBytes (w.extractLsb' 0 8) (w.extractLsb' 8 8) (w.extractLsb' 16 8) (w.extractLsb' 24 8) = w := by
  apply BitVec.eq_of_getLsbD_eq
  intro k hk
  simp only [wordOfBytes, BitVec.getLsbD_append, BitVec.getLsbD_extractLsb']
  repeat' split
  all_goals (rw [decide_eq_true (by omega), Bool.true_and]; congr 1; omega)

/-- Decoding the bytes of a word is decoding the word. -/
theorem decode_bytesOfWord (w : Word) (rest : List Byte) :
    decode (bytesOfWord w ++ rest) = (decodeWord w).map fun i => (i, rest) := by
  simp only [bytesOfWord, List.cons_append, List.nil_append, decode, wordOfBytes_bytesOfWord]
  cases decodeWord w <;> rfl

/-- A command that decoding gives is the one its word encodes to, under a passed zero test. -/
theorem ifZero_ok (b : Bool) (i j : Instr) : ifZero b i = .ok j ↔ b = true ∧ i = j := by
  cases b <;> simp [ifZero]

end Sys2Proof
end

