-- ==== Sys2Proof/Laws/Memory.lean ====
section
/-! SUPPORT. What the operations over shared memory do: a read after a write, the bytes a write leaves alone, the
canonical form, and which addresses a check lets through. -/

namespace Sys2Proof.Machine

/-! ### One byte -/

theorem Memory.read_erase (m : Memory) (x y : Nat) :
    (m.erase x).read y = if y = x then Config.powerUpByte else m.read y := by
  unfold Memory.erase
  induction m with
  | nil => simp [Memory.read]
  | cons c rest ih =>
    obtain ⟨a, b⟩ := c
    by_cases hax : a = x
    · subst hax
      simp only [List.filter_cons, bne_self_eq_false, Bool.false_eq_true, if_false, ih, Memory.read]
      by_cases hya : y = a
      · simp [hya]
      · simp [hya, Ne.symm hya]
    · simp only [List.filter_cons, bne_iff_ne.mpr hax, if_true, Memory.read, ih]
      by_cases hay : a = y
      · subst hay; simp [hax]
      · simp [hay]

theorem Memory.read_insert (m : Memory) (x y : Nat) (v : Byte) (hx : ∀ c ∈ m, c.1 ≠ x) :
    (m.insert x v).read y = if y = x then v else m.read y := by
  induction m with
  | nil =>
    by_cases h : y = x
    · simp [Memory.insert, Memory.read, h]
    · simp [Memory.insert, Memory.read, h, Ne.symm h]
  | cons c rest ih =>
    obtain ⟨a, b⟩ := c
    have hax : a ≠ x := hx (a, b) (by simp)
    have hrest : ∀ c ∈ rest, c.1 ≠ x := fun c hc => hx c (by simp [hc])
    unfold Memory.insert
    split
    · by_cases h : y = x
      · simp [Memory.read, h]
      · simp [Memory.read, h, Ne.symm h]
    · simp only [Memory.read, ih hrest]
      by_cases hay : a = y
      · subst hay; simp [hax]
      · simp [hay]

/-- A read after a write of one byte: the byte written at its address, the old byte elsewhere. -/
theorem Memory.read_write (m : Memory) (x y : Nat) (v : Byte) :
    (m.write x v).read y = if y = x then v else m.read y := by
  unfold Memory.write
  split
  · rename_i h; subst h; exact Memory.read_erase m x y
  · rw [Memory.read_insert _ _ _ _ (by
      intro c hc
      simp only [Memory.erase, List.mem_filter, bne_iff_ne] at hc
      exact hc.2)]
    by_cases h : y = x
    · simp [h]
    · simp [h, Memory.read_erase]

@[simp] theorem Memory.read_write_same (m : Memory) (x : Nat) (v : Byte) : (m.write x v).read x = v := by
  simp [Memory.read_write]

theorem Memory.read_write_other (m : Memory) {x y : Nat} (v : Byte) (h : y ≠ x) :
    (m.write x v).read y = m.read y := by simp [Memory.read_write, h]

@[simp] theorem Memory.read_nil (x : Nat) : Memory.read [] x = Config.powerUpByte := rfl

/-! ### The canonical form -/

/-- The canonical form as an order on addresses and a bound on values. -/
theorem Memory.wf_iff (m : Memory) :
    m.wf = true ↔ m.Pairwise (fun c d => c.1 < d.1) ∧ ∀ c ∈ m, c.2 ≠ Config.powerUpByte := by
  induction m with
  | nil => simp [Memory.wf]
  | cons c rest ih =>
    obtain ⟨a, v⟩ := c
    cases rest with
    | nil => simp [Memory.wf]
    | cons d rest =>
      obtain ⟨b, w⟩ := d
      simp only [Memory.wf, Bool.and_eq_true, bne_iff_ne, decide_eq_true_eq]
      rw [ih]
      constructor
      · rintro ⟨⟨hv, hab⟩, hp, hn⟩
        refine ⟨List.pairwise_cons.mpr ⟨?_, hp⟩, ?_⟩
        · intro e he
          rcases List.mem_cons.mp he with rfl | he
          · exact hab
          · exact Nat.lt_trans hab ((List.pairwise_cons.mp hp).1 e he)
        · intro e he
          rcases List.mem_cons.mp he with rfl | he
          · exact hv
          · exact hn e he
      · rintro ⟨hp, hn⟩
        exact ⟨⟨hn (a, v) (by simp), (List.pairwise_cons.mp hp).1 (b, w) (by simp)⟩, (List.pairwise_cons.mp hp).2,
          fun e he => hn e (List.mem_cons_of_mem _ he)⟩

theorem Memory.mem_erase (m : Memory) (x : Nat) (c : Host.Cell) : c ∈ m.erase x ↔ c ∈ m ∧ c.1 ≠ x := by
  simp [Memory.erase]

theorem Memory.mem_insert (m : Memory) (x : Nat) (v : Byte) (c : Host.Cell) :
    c ∈ m.insert x v ↔ c = (x, v) ∨ c ∈ m := by
  induction m with
  | nil => simp [Memory.insert]
  | cons d rest ih =>
    obtain ⟨a, b⟩ := d
    unfold Memory.insert
    split
    · simp
    · simp only [List.mem_cons, ih]; tauto

/-- A cell of the memory after a write is the written one or an old one. -/
theorem Memory.mem_write (m : Memory) (x : Nat) (v : Byte) (c : Host.Cell) (h : c ∈ m.write x v) :
    c = (x, v) ∨ c ∈ m := by
  unfold Memory.write at h
  split at h
  · exact .inr ((Memory.mem_erase m x c).mp h).1
  · rcases (Memory.mem_insert _ x v c).mp h with h | h
    · exact .inl h
    · exact .inr ((Memory.mem_erase m x c).mp h).1

theorem Memory.wf_erase (m : Memory) (x : Nat) (h : m.wf = true) : (m.erase x).wf = true := by
  rw [Memory.wf_iff] at h ⊢
  exact ⟨h.1.filter _, fun c hc => h.2 c ((Memory.mem_erase m x c).mp hc).1⟩

theorem Memory.wf_insert (m : Memory) (x : Nat) (v : Byte) (hv : v ≠ Config.powerUpByte) (hx : ∀ c ∈ m, c.1 ≠ x)
    (h : m.wf = true) : (m.insert x v).wf = true := by
  rw [Memory.wf_iff] at h ⊢
  refine ⟨?_, ?_⟩
  · have hp := h.1
    clear h
    induction m with
    | nil => simp [Memory.insert]
    | cons d rest ih =>
      obtain ⟨a, b⟩ := d
      have hp' := List.pairwise_cons.mp hp
      unfold Memory.insert
      split
      · rename_i hlt
        refine List.pairwise_cons.mpr ⟨?_, hp⟩
        intro e he
        rcases List.mem_cons.mp he with rfl | he
        · exact hlt
        · exact Nat.lt_trans hlt (hp'.1 e he)
      · rename_i hge
        have hax : a ≠ x := hx (a, b) (by simp)
        refine List.pairwise_cons.mpr ⟨?_, ih (fun c hc => hx c (by simp [hc])) hp'.2⟩
        intro e he
        rcases (Memory.mem_insert rest x v e).mp he with rfl | he
        · show a < x
          omega
        · exact hp'.1 e he
  · intro c hc
    rcases (Memory.mem_insert m x v c).mp hc with rfl | hc
    · exact hv
    · exact h.2 c hc

/-- A write keeps the canonical form. -/
theorem Memory.wf_write (m : Memory) (x : Nat) (v : Byte) (h : m.wf = true) : (m.write x v).wf = true := by
  unfold Memory.write
  split
  · exact Memory.wf_erase m x h
  · rename_i hv
    exact Memory.wf_insert _ x v hv (fun c hc => ((Memory.mem_erase m x c).mp hc).2) (Memory.wf_erase m x h)

/-- The memory of the reset state has the canonical form. -/
theorem reset_memory_wf : State.reset.mem.wf = true := rfl

/-! ### Ranges and words -/

theorem Memory.read_window (m : Memory) (a n x : Nat) (h1 : a ≤ x) (h2 : x < a + n) :
    (m.window a n).read x = m.read x := by
  unfold Memory.window
  induction m with
  | nil => rfl
  | cons c rest ih =>
    obtain ⟨k, b⟩ := c
    by_cases hk : k = x
    · subst hk
      simp [h1, h2, Memory.read]
    · rw [List.filter_cons]
      split
      · simp only [Memory.read, hk, if_false]; exact ih
      · simp only [Memory.read, hk, if_false]; exact ih

/-- A range read is its bytes read one by one. -/
theorem Memory.readRange_eq (m : Memory) (a n : Nat) :
    m.readRange a n = (List.range n).map fun i => m.read (a + i) := by
  unfold Memory.readRange
  apply List.map_congr_left
  intro i hi
  rw [List.mem_range] at hi
  exact Memory.read_window m a n (a + i) (by omega) (by omega)

@[simp] theorem Memory.readRange_length (m : Memory) (a n : Nat) : (m.readRange a n).length = n := by
  simp [Memory.readRange]

/-- A read after a range write: the byte of the range, or the old byte outside it. -/
theorem Memory.read_writeRange (m : Memory) (a x : Nat) (l : List Byte) :
    (m.writeRange a l).read x = if a ≤ x ∧ x < a + l.length then l.getD (x - a) 0 else m.read x := by
  induction l generalizing m a with
  | nil => simp [Memory.writeRange]
  | cons b rest ih =>
    rw [Memory.writeRange, ih]
    by_cases hxa : x = a
    · subst hxa
      simp
    · rw [Memory.read_write_other _ _ hxa]
      by_cases h : a + 1 ≤ x ∧ x < a + 1 + rest.length
      · have h' : a ≤ x ∧ x < a + (b :: rest).length := by simp only [List.length_cons]; omega
        obtain ⟨k, hk⟩ : ∃ k, x - a = k + 1 := ⟨x - a - 1, by omega⟩
        rw [if_pos h, if_pos h', hk, List.getD_cons_succ]
        congr 1; omega
      · have h' : ¬(a ≤ x ∧ x < a + (b :: rest).length) := by simp only [List.length_cons]; omega
        rw [if_neg h, if_neg h']

theorem Memory.wf_writeRange (m : Memory) (a : Nat) (l : List Byte) (h : m.wf = true) :
    (m.writeRange a l).wf = true := by
  induction l generalizing m a with
  | nil => exact h
  | cons b rest ih => exact ih _ _ (Memory.wf_write m a b h)

theorem Memory.mem_writeRange (m : Memory) (a : Nat) (l : List Byte) (c : Host.Cell) (h : c ∈ m.writeRange a l) :
    (a ≤ c.1 ∧ c.1 < a + l.length) ∨ c ∈ m := by
  induction l generalizing m a with
  | nil => exact .inr h
  | cons b rest ih =>
    rcases ih _ _ h with h | h
    · left; simp only [List.length_cons]; omega
    · rcases Memory.mem_write _ _ _ _ h with rfl | h
      · left; simp
      · exact .inr h

theorem Memory.wf_writeWord (m : Memory) (a : Nat) (w : Word) (h : m.wf = true) : (m.writeWord a w).wf = true :=
  Memory.wf_writeRange m a _ h

/-- A read after a word write. -/
theorem Memory.read_writeWord (m : Memory) (a x : Nat) (w : Word) :
    (m.writeWord a w).read x =
      if a ≤ x ∧ x < a + 4 then (bytesOfWord w).getD (x - a) 0 else m.read x :=
  Memory.read_writeRange m a x _

/-! ### The check of addresses -/

/-- The check finds nothing exactly when every span lies in memory. -/
theorem lowestFailing_none_iff (n : Nat) (l : List Span) :
    lowestFailing n l = none ↔ ∀ sp ∈ l, sp.len = 0 ∨ sp.first + sp.len ≤ n := by
  induction l with
  | nil => simp [lowestFailing]
  | cons sp rest ih =>
    unfold lowestFailing
    by_cases h : sp.len ≠ 0 ∧ n < sp.first + sp.len
    · rw [if_pos h]
      constructor
      · intro h'; split at h' <;> cases h'
      · intro h'
        have := h' sp (by simp)
        omega
    · rw [if_neg h, ih]
      constructor
      · intro h' q hq
        rcases List.mem_cons.mp hq with rfl | hq
        · omega
        · exact h' q hq
      · intro h' q hq
        exact h' q (List.mem_cons_of_mem _ hq)

/-- What the check finds is the lowest address of the spans that does not exist. -/
theorem lowestFailing_some (n : Nat) (l : List Span) (a : Nat) (h : lowestFailing n l = some a) :
    lowestMissing n (fun b => ∃ sp ∈ l, sp.first ≤ b ∧ b < sp.first + sp.len) a := by
  induction l generalizing a with
  | nil => simp [lowestFailing] at h
  | cons sp rest ih =>
    unfold lowestFailing at h
    by_cases hs : sp.len ≠ 0 ∧ n < sp.first + sp.len
    · rw [if_pos hs] at h
      split at h
      · rename_i b hb
        obtain ⟨⟨q, hq, hq1, hq2⟩, hn, hl⟩ := ih b hb
        cases h
        rcases Nat.le_total (max sp.first n) b with hle | hle
        · rw [Nat.min_eq_left hle]
          refine ⟨⟨sp, by simp, by omega, by omega⟩, by omega, ?_⟩
          rintro c ⟨r, hr, hr1, hr2⟩ hc
          rcases List.mem_cons.mp hr with rfl | hr
          · omega
          · have := hl c ⟨r, hr, hr1, hr2⟩ hc; omega
        · rw [Nat.min_eq_right hle]
          refine ⟨⟨q, by simp [hq], hq1, hq2⟩, hn, ?_⟩
          rintro c ⟨r, hr, hr1, hr2⟩ hc
          rcases List.mem_cons.mp hr with rfl | hr
          · omega
          · exact hl c ⟨r, hr, hr1, hr2⟩ hc
      · rename_i hb
        have hnone := (lowestFailing_none_iff n rest).mp hb
        cases h
        refine ⟨⟨sp, by simp, by omega, by omega⟩, by omega, ?_⟩
        rintro c ⟨r, hr, hr1, hr2⟩ hc
        rcases List.mem_cons.mp hr with rfl | hr
        · omega
        · have := hnone r hr; omega
    · rw [if_neg hs] at h
      obtain ⟨⟨q, hq, hq1, hq2⟩, hn, hl⟩ := ih a h
      refine ⟨⟨q, by simp [hq], hq1, hq2⟩, hn, ?_⟩
      rintro c ⟨r, hr, hr1, hr2⟩ hc
      rcases List.mem_cons.mp hr with rfl | hr
      · omega
      · exact hl c ⟨r, hr, hr1, hr2⟩ hc

/-- There is at most one lowest missing address. -/
theorem lowestMissing_unique {n : Nat} {p q : Nat → Prop} (hpq : ∀ a, p a ↔ q a) {a b : Nat}
    (ha : lowestMissing n p a) (hb : lowestMissing n q b) : a = b := by
  have h1 := ha.2.2 b ((hpq b).mpr hb.1) hb.2.1
  have h2 := hb.2.2 a ((hpq a).mp ha.1) ha.2.1
  omega

end Sys2Proof.Machine
end

