-- ==== Sys2Proof/Laws/Operands.lean ====
section
/-! SUPPORT. Packed pairs, planes and their spans, and the geometric tests as the statements write them. -/

namespace Sys2Proof.Machine

/-! ### Packed pairs (rules R8, R10) -/

@[simp] theorem pack_unpack (w : Word) : pack (lo16s w) (hi16s w) = w := by
  simp only [pack, lo16s, hi16s, BitVec.ofInt_toInt]
  apply BitVec.eq_of_getLsbD_eq
  intro k hk
  simp only [BitVec.getLsbD_append, BitVec.getLsbD_extractLsb']
  split
  · rw [decide_eq_true (by omega), Bool.true_and]; congr 1; omega
  · rw [decide_eq_true (by omega), Bool.true_and]; congr 1; omega

theorem lo16s_pack (a b : Int) : lo16s (pack a b) = (BitVec.ofInt 16 a).toInt := by
  unfold lo16s pack
  congr 1
  apply BitVec.eq_of_getLsbD_eq
  intro k hk
  simp only [BitVec.getLsbD_append, BitVec.getLsbD_extractLsb', hk, decide_true, Bool.true_and, Nat.zero_add, if_true]

theorem hi16s_pack (a b : Int) : hi16s (pack a b) = (BitVec.ofInt 16 b).toInt := by
  unfold hi16s pack
  congr 1
  apply BitVec.eq_of_getLsbD_eq
  intro k hk
  simp only [BitVec.getLsbD_append, BitVec.getLsbD_extractLsb', hk, decide_true, Bool.true_and]
  rw [if_neg (by omega)]
  congr 1; omega

/-! ### Planes -/

/-- The addresses of a block's spans are the addresses of its samples. -/
theorem mem_spans_iff (p : Plane) (x y cols rows a : Nat) :
    (∃ sp ∈ p.spans x y cols rows, sp.first ≤ a ∧ a < sp.first + sp.len) ↔
      blockAddress p.base p.width x y cols rows a := by
  simp only [Plane.spans, List.mem_map, List.mem_range, blockAddress, Plane.address]
  constructor
  · rintro ⟨sp, ⟨r, hr, rfl⟩, h1, h2⟩
    exact ⟨r, a - (p.base + (y + r) * p.width + x), hr, by simp only at h1 h2; omega, by simp only at h1; omega⟩
  · rintro ⟨r, c, hr, hc, rfl⟩
    exact ⟨_, ⟨r, hr, rfl⟩, by simp only; omega, by simp only; omega⟩

/-- The rows of a block are the bytes at its samples' addresses. -/
theorem rows_eq (p : Plane) (m : Memory) (x y cols rows : Nat) :
    p.rows m x y cols rows =
      (List.range rows).map fun i => (List.range cols).map fun j => m.read (p.base + (y + i) * p.width + x + j) := by
  simp only [Plane.rows, Memory.readRange_eq, Plane.address]

/-! ### Geometric tests -/

theorem inPlane_iff (at2 : Vec) (n w h : Nat) : inPlane at2 n w h = true ↔ insidePlane at2.x at2.y n w h := by
  simp [inPlane, insidePlane, and_assoc]

theorem isCandidate_iff (s : State) (o mv : Vec) :
    isCandidate s o mv = true ↔ legalCandidate s o.x o.y mv.x mv.y := by
  simp [isCandidate, legalCandidate, inPlane_iff, displaced, and_assoc]

theorem unitInside_iff (s : State) (pos : Vec) :
    unitInside s pos = true ↔
      0 ≤ pos.x ∧ 0 ≤ pos.y ∧ pos.x + 16 ≤ lumaW s ∧ pos.y + 16 ≤ lumaH s := by
  simp [unitInside, and_assoc]

/-- The zero vector is a candidate wherever the unit lies inside the frame (rule R190). -/
theorem zero_isCandidate (s : State) (o : Vec) (h : unitInside s o = true) : isCandidate s o ⟨0, 0⟩ = true := by
  rw [unitInside_iff] at h
  rw [isCandidate_iff]
  unfold legalCandidate insidePlane
  simp only [Int.natAbs_zero, Nat.zero_le, true_and]
  omega

end Sys2Proof.Machine
end

