-- ==== Sys2Proof/Laws/Ops.lean ====
section
/-! SUPPORT. What the shared operations of the engine can do, said once: checks, completion, fault entry. -/

namespace Sys2Proof.Machine

/-! ### Checks -/

@[simp] theorem require_true (t : Trap) : require true t = .ok () := rfl

@[simp] theorem require_false (t : Trap) : require false t = .error t := rfl

theorem require_eq_ok (b : Bool) (t : Trap) (u : Unit) : require b t = .ok u ↔ b = true := by
  cases b <;> simp

theorem require_eq_error (b : Bool) (t e : Trap) : require b t = .error e ↔ b = false ∧ e = t := by
  cases b <;> simp [eq_comm]

/-- A check followed by more: it passes when the condition holds and the rest passes. -/
theorem require_bind_ok {α : Type} (b : Bool) (t : Trap) (f : Unit → Except Trap α) (a : α) :
    (require b t >>= f) = .ok a ↔ b = true ∧ f () = .ok a := by
  cases b <;> simp [require, bind, Except.bind]

/-- A check followed by more: it faults with its own trap, or passes and the rest faults. -/
theorem require_bind_error {α : Type} (b : Bool) (t e : Trap) (f : Unit → Except Trap α) :
    (require b t >>= f) = .error e ↔ (b = false ∧ e = t) ∨ (b = true ∧ f () = .error e) := by
  cases b <;> simp [require, bind, Except.bind, eq_comm]

@[simp] theorem require_true_bind {α : Type} (t : Trap) (f : Unit → Except Trap α) :
    (require true t >>= f) = f () := rfl

@[simp] theorem require_false_bind {α : Type} (t : Trap) (f : Unit → Except Trap α) :
    (require false t >>= f) = .error t := rfl

/-- The memory check passes exactly when every span lies in memory. -/
theorem requireInMemory_eq_ok (s : State) (l : List Span) (u : Unit) :
    requireInMemory s l = .ok u ↔ ∀ sp ∈ l, sp.len = 0 ∨ sp.first + sp.len ≤ s.memSize := by
  rw [← lowestFailing_none_iff]
  unfold requireInMemory
  split <;> simp_all

/-- The memory check faults with the lowest address of the spans that does not exist. -/
theorem requireInMemory_eq_error (s : State) (l : List Span) (e : Trap) (h : requireInMemory s l = .error e) :
    e.code = .busFault ∧
      lowestMissing s.memSize (fun b => ∃ sp ∈ l, sp.first ≤ b ∧ b < sp.first + sp.len) e.info := by
  unfold requireInMemory at h
  split at h
  · cases h
  · rename_i a ha
    cases h
    exact ⟨rfl, lowestFailing_some _ _ _ ha⟩

/-- The memory check faults where an address of the spans is the lowest missing one. -/
theorem requireInMemory_of_lowestMissing (s : State) (l : List Span) (a : Nat)
    (h : lowestMissing s.memSize (fun b => ∃ sp ∈ l, sp.first ≤ b ∧ b < sp.first + sp.len) a) :
    requireInMemory s l = .error ⟨.busFault, a⟩ := by
  unfold requireInMemory
  split
  · rename_i hn
    rw [lowestFailing_none_iff] at hn
    obtain ⟨⟨sp, hsp, h1, h2⟩, h3, -⟩ := h
    have := hn sp hsp
    omega
  · rename_i b hb
    rw [lowestMissing_unique (fun _ => Iff.rfl) (lowestFailing_some _ _ _ hb) h]

/-! ### Completion -/

/-- Everything `complete` can answer. -/
theorem complete_cases {s t : State} {r : Except Trap State} (h : complete s r = .next t) :
    (∃ u, r = .ok u ∧ t = u.advance) ∨ (∃ e, r = .error e ∧ t = s.takeFault e) := by
  unfold complete at h
  cases r with
  | ok u => exact .inl ⟨u, rfl, (Host.Outcome.next.inj h).symm⟩
  | error e => exact .inr ⟨e, rfl, (Host.Outcome.next.inj h).symm⟩

@[simp] theorem complete_ok (s u : State) : complete s (.ok u) = .next u.advance := rfl

@[simp] theorem complete_error (s : State) (e : Trap) : complete s (.error e) = .next (s.takeFault e) := rfl

/-- Completion always answers a next state. -/
theorem complete_next (s : State) (r : Except Trap State) : ∃ t, complete s r = .next t := by
  cases r <;> exact ⟨_, rfl⟩

theorem toNat_nextCp (s : State) : (nextCp s).toNat = (s.cp.toNat + 4) % 2 ^ 32 := by
  simp [nextCp, BitVec.toNat_add]

theorem nextCp_eq (s : State) : nextCp s = BitVec.ofNat 32 (s.cp.toNat + 4) := by
  apply BitVec.eq_of_toNat_eq
  rw [toNat_nextCp, BitVec.toNat_ofNat]

/-! ### Fault entry -/

/-- Fault entry as the statements write it. -/
theorem takeFault_eq (s : State) (t : Trap) : s.takeFault t = faulted s (faultNumber t.code).toNat t.info := by
  simp [State.takeFault, State.raiseIrq, faulted, irqFault]

theorem stateDetail_eq (s : State) : (stateBits s).toNat = stateDetail s := by
  unfold stateBits stateDetail
  cases s.frame.fs <;> cases s.frame.uphase <;> cases s.cur.valid <;> rfl

/-- Fault entry leaves `CP`, the registers, the flags, the frame and memory alone (rule R304). -/
theorem faulted_frame (s : State) (code v : Nat) :
    (faulted s code v).regs = s.regs ∧ (faulted s code v).cp = s.cp ∧ (faulted s code v).flags = s.flags ∧
    (faulted s code v).frame = s.frame ∧ (faulted s code v).cfg = s.cfg ∧ (faulted s code v).me = s.me ∧
    (faulted s code v).cur = s.cur ∧ (faulted s code v).quant = s.quant ∧ (faulted s code v).mb = s.mb ∧
    (faulted s code v).qc = s.qc ∧ (faulted s code v).sink = s.sink ∧ (faulted s code v).mem = s.mem ∧
    (faulted s code v).memSize = s.memSize ∧ (faulted s code v).host = s.host :=
  ⟨rfl, rfl, rfl, rfl, rfl, rfl, rfl, rfl, rfl, rfl, rfl, rfl, rfl, rfl⟩

/-- `FS` in {1, 2}, as the statements write it. -/
theorem inFrame_iff (s : State) : inFrame s = true ↔ coding s := by simp [inFrame, coding]

end Sys2Proof.Machine
end

