-- ==== Sys2Proof/Laws/PerInstr.lean ====
section
/-! SUPPORT. A family of laws with one lemma per command: the opcode of an encoded command is the one its row of rule
R114 shows in bits 31:26. -/

namespace Sys2Proof.Laws.OpcodeField

open Sys2Proof.Machine

/-- Bits 31:26 of the encoded command are those of its row's `match` (rules R110, R114). -/
def Statement (i : Instr) : Prop := opField (encode i) = opField (opcodeRow i).fixed

theorem halt : Statement .halt := by simp [Statement, encode, opcodeRow]; rfl
theorem br (c : Cond) (off : BitVec 22) : Statement (.br c off) := by simp [Statement, encode, opcodeRow]; rfl
theorem nop : Statement .nop := by simp [Statement, encode, opcodeRow]; rfl
theorem addi (rd ra : Reg) (imm : BitVec 16) : Statement (.addi rd ra imm) := by simp [Statement, encode, opcodeRow]; rfl
theorem ori (rd ra : Reg) (imm : BitVec 16) : Statement (.ori rd ra imm) := by simp [Statement, encode, opcodeRow]; rfl
theorem lui (rd : Reg) (imm : BitVec 16) : Statement (.lui rd imm) := by simp [Statement, encode, opcodeRow]; rfl
theorem add (rd ra rb : Reg) : Statement (.add rd ra rb) := by simp [Statement, encode, opcodeRow]; rfl
theorem sub (rd ra rb : Reg) : Statement (.sub rd ra rb) := by simp [Statement, encode, opcodeRow]; rfl
theorem cmp (ra rb : Reg) : Statement (.cmp ra rb) := by simp [Statement, encode, opcodeRow]; rfl
theorem ldw (rd ra : Reg) (imm : BitVec 16) : Statement (.ldw rd ra imm) := by simp [Statement, encode, opcodeRow]; rfl
theorem stw (rs ra : Reg) (imm : BitVec 16) : Statement (.stw rs ra imm) := by simp [Statement, encode, opcodeRow]; rfl
theorem rdcsr (rd : Reg) (csr : BitVec 16) : Statement (.rdcsr rd csr) := by simp [Statement, encode, opcodeRow]; rfl
theorem wrcsr (csr : BitVec 16) (ra : Reg) : Statement (.wrcsr csr ra) := by simp [Statement, encode, opcodeRow]; rfl
theorem ldcur (ra : Reg) : Statement (.ldcur ra) := by simp [Statement, encode, opcodeRow]; rfl
theorem metric (met : MetricKind) (dir : Dir) (rd ra rb : Reg) : Statement (.metric met dir rd ra rb) := by simp [Statement, encode, opcodeRow]; rfl
theorem act (met : MetricKind) (rd : Reg) : Statement (.act met rd) := by simp [Statement, encode, opcodeRow]; rfl
theorem msrch (met : MetricKind) (dir : SearchDir) (rd ra : Reg) : Statement (.msrch met dir rd ra) := by simp [Statement, encode, opcodeRow]; rfl
theorem mdec (rd : Reg) : Statement (.mdec rd) := by simp [Statement, encode, opcodeRow]; rfl
theorem tqmb (mode : CodingMode) : Statement (.tqmb mode) := by simp [Statement, encode, opcodeRow]; rfl
theorem ecmb : Statement .ecmb := by simp [Statement, encode, opcodeRow]; rfl
theorem putb (ra : Reg) (n : BitVec 6) : Statement (.putb ra n) := by simp [Statement, encode, opcodeRow]; rfl
theorem align : Statement .align := by simp [Statement, encode, opcodeRow]; rfl
theorem flush : Statement .flush := by simp [Statement, encode, opcodeRow]; rfl
theorem frmbeg (t : FrameType) : Statement (.frmbeg t) := by simp [Statement, encode, opcodeRow]; rfl
theorem frmend : Statement .frmend := by simp [Statement, encode, opcodeRow]; rfl
theorem frmnext (keep : Bool) : Statement (.frmnext keep) := by simp [Statement, encode, opcodeRow]; rfl

end Sys2Proof.Laws.OpcodeField
end

