-- ==== Sys2Proof/Laws/Quant.lean ====
section
/-! SUPPORT. Lengths and ranges along the quantizer (rules R220 to R226). -/

namespace Sys2Proof.Machine

/-- A replaced predictor reads as the value put there, the two others as before (rule R227). -/
@[simp] theorem DcPredictors.get_set (d : DcPredictors) (c c' : Component) (v : Word) :
    (d.set c v).get c' = if c' = c then v else d.get c' := by
  cases c <;> cases c' <;> rfl

/-- The pass over a first block and the rest (rule R225). -/
theorem quantPass_cons (intra clampIt : Bool) (qm : List Nat) (q : Nat) (c : Component) (f : List Int)
    (rest : List (Component × List Int)) (d : DcPredictors) :
    quantPass intra qm q clampIt ((c, f) :: rest) d =
      (let b := quantBlock intra qm q clampIt f (d.get c)
       let r := quantPass intra qm q clampIt rest (d.set c b.pred)
       ⟨b.coded :: r.coded, b.effective :: r.effective, r.preds, b.overflow || r.overflow⟩) := rfl

/-- A clamped value is representable. -/
theorem clampLevel_bound (e : Int) : (clampLevel e).natAbs ≤ 255 := by
  unfold clampLevel clamp levelMax
  split
  · decide
  · split <;> omega

/-- A value that does not overflow is representable. -/
theorem overflows_false (e : Int) : overflows e = false ↔ e.natAbs ≤ 255 := by
  unfold overflows levelMax
  rw [decide_eq_false_iff_not]; omega

@[simp] theorem addDc_length (v : Int) (l : List Int) : (addDc v l).length = l.length := by
  cases l <;> rfl

@[simp] theorem quantize_length (qm : List Nat) (q : Nat) (f : List Int) :
    (quantize qm q f).length = min f.length qm.length := by simp [quantize]

@[simp] theorem dequantize_length (qm : List Nat) (q : Nat) (l : List Int) :
    (dequantize qm q l).length = min l.length qm.length := by simp [dequantize]

@[simp] theorem quantMatrix_length (s : State) : (quantMatrix s).length = 64 := by simp [quantMatrix]

theorem transposed_length (m : List (List Int)) : (transposed m).length = 8 := by simp [transposed]

theorem doubleSums_length (m : List (List Int)) (x : List Int) :
    (doubleSums m x).length = m.length * m.length := by
  simp [doubleSums, List.length_flatMap]

@[simp] theorem forwardTransform_length (xform : Bool) (x : List Int) : (forwardTransform xform x).length = 64 := by
  unfold forwardTransform
  split <;> simp [doubleSums_length, whtMatrix, dctMatrix]

@[simp] theorem inverseTransform_length (xform : Bool) (x : List Int) : (inverseTransform xform x).length = 64 := by
  unfold inverseTransform
  split <;> simp [doubleSums_length, transposed_length]

@[simp] theorem scanOrder_length (e : List Int) : (scanOrder e).length = 64 := by simp [scanOrder, zigzag]

/-- Every block of a pass without overflow, and of a clamped pass, is representable. -/
theorem quantBlock_bound (intra clampIt : Bool) (qm : List Nat) (q : Nat) (f : List Int) (pred : Word)
    (h : clampIt = true ∨ (quantBlock intra qm q clampIt f pred).overflow = false) :
    ∀ v ∈ (quantBlock intra qm q clampIt f pred).coded, v.natAbs ≤ 255 := by
  intro v hv
  unfold quantBlock at h hv
  simp only at h hv
  cases clampIt
  · rcases h with h | h
    · cases h
    · simp only [Bool.false_eq_true, if_false] at hv
      rw [List.any_eq_false] at h
      have := h v hv
      rw [Bool.not_eq_true, overflows_false] at this
      exact this
  · simp only [if_true, List.mem_map] at hv
    obtain ⟨w, -, rfl⟩ := hv
    exact clampLevel_bound w

/-- The same over the blocks of a unit. -/
theorem quantPass_bound (intra clampIt : Bool) (qm : List Nat) (q : Nat) (l : List (Component × List Int))
    (d : DcPredictors) (h : clampIt = true ∨ (quantPass intra qm q clampIt l d).overflow = false) :
    ∀ e ∈ (quantPass intra qm q clampIt l d).coded, ∀ v ∈ e, v.natAbs ≤ 255 := by
  induction l generalizing d with
  | nil => simp [quantPass]
  | cons cf l ih =>
    obtain ⟨c, f⟩ := cf
    simp only [quantPass, List.mem_cons, forall_eq_or_imp, Bool.or_eq_false_iff] at h ⊢
    exact ⟨quantBlock_bound _ _ _ _ _ _ (h.imp id And.left), ih _ (h.imp id And.right)⟩

/-- One block in, one block out. -/
theorem quantPass_length (intra clampIt : Bool) (qm : List Nat) (q : Nat) (l : List (Component × List Int))
    (d : DcPredictors) :
    (quantPass intra qm q clampIt l d).coded.length = l.length ∧
    (quantPass intra qm q clampIt l d).effective.length = l.length := by
  induction l generalizing d with
  | nil => exact ⟨rfl, rfl⟩
  | cons cf l ih => simp [quantPass, ih]

end Sys2Proof.Machine
end

