-- ==== Sys2Proof/Laws/Search.lean ====
section
/-! SUPPORT. The order on candidates and its least element (rule R192). -/

namespace Sys2Proof.Machine

theorem keyLess_iff (a b : Candidate) : keyLess a b = true ↔ keyBefore a b := by
  simp [keyLess, keyBefore]

theorem keyBefore_irrefl (a : Candidate) : ¬keyBefore a a := by
  unfold keyBefore; simp

theorem keyBefore_trans {a b c : Candidate} (h : keyBefore a b) (h' : keyBefore b c) : keyBefore a c := by
  unfold keyBefore at *
  simp only at *
  generalize a.mv.x.natAbs + a.mv.y.natAbs = ma at *
  generalize b.mv.x.natAbs + b.mv.y.natAbs = mb at *
  generalize c.mv.x.natAbs + c.mv.y.natAbs = mc at *
  omega

/-- No two distinct candidates have equal keys. -/
theorem keyBefore_total (a b : Candidate) : keyBefore a b ∨ a = b ∨ keyBefore b a := by
  obtain ⟨⟨ax, ay⟩, ad⟩ := a
  obtain ⟨⟨bx, b_y⟩, bd⟩ := b
  unfold keyBefore
  simp only [Candidate.mk.injEq, Vec.mk.injEq]
  by_cases h : ad = bd ∧ ay = b_y ∧ ax = bx
  · exact .inr (.inl ⟨⟨h.2.2, h.2.1⟩, h.1⟩)
  · generalize ax.natAbs + ay.natAbs = ma
    generalize bx.natAbs + b_y.natAbs = mb
    omega

/-- The least candidate is one of those given, and none of them is before it. -/
theorem leastKey_spec (first : Candidate) (l : List Candidate) :
    (leastKey first l = first ∨ leastKey first l ∈ l) ∧ ¬keyBefore first (leastKey first l) ∧
    ∀ c ∈ l, ¬keyBefore c (leastKey first l) := by
  induction l generalizing first with
  | nil => exact ⟨.inl rfl, keyBefore_irrefl _, by simp⟩
  | cons d l ih =>
    have step : leastKey first (d :: l) = leastKey (if keyLess d first then d else first) l := rfl
    rw [step]
    obtain ⟨h1, h2, h3⟩ := ih (if keyLess d first then d else first)
    by_cases hd : keyLess d first = true
    · rw [if_pos hd] at h1 h2 h3 ⊢
      have hb := (keyLess_iff d first).mp hd
      refine ⟨.inr ?_, fun h => h2 (keyBefore_trans hb h), ?_⟩
      · rcases h1 with h1 | h1
        · rw [h1]; exact List.mem_cons_self
        · exact List.mem_cons_of_mem _ h1
      · intro c hc
        rcases List.mem_cons.mp hc with rfl | hc
        · exact h2
        · exact h3 c hc
    · rw [if_neg hd] at h1 h2 h3 ⊢
      refine ⟨?_, h2, ?_⟩
      · rcases h1 with h1 | h1
        · exact .inl h1
        · exact .inr (List.mem_cons_of_mem _ h1)
      · intro c hc
        rcases List.mem_cons.mp hc with rfl | hc
        · intro h
          rcases keyBefore_total c first with h' | h' | h'
          · exact hd ((keyLess_iff _ _).mpr h')
          · subst h'; exact h2 h
          · exact h2 (keyBefore_trans h' h)
        · exact h3 c hc

/-- The integers of the symmetric range. -/
theorem mem_symmetricRange (r : Nat) (v : Int) : v ∈ symmetricRange r ↔ -(r : Int) ≤ v ∧ v ≤ r := by
  simp only [symmetricRange, List.mem_map, List.mem_range]
  constructor
  · rintro ⟨k, hk, rfl⟩; omega
  · rintro ⟨h1, h2⟩
    exact ⟨(v + r).toNat, by omega, by omega⟩

/-- The vectors of a grid. -/
theorem mem_grid (c : Vec) (a : Int) (r : Nat) (v : Vec) :
    v ∈ grid c a r ↔
      ∃ dx dy : Int, (-(r : Int) ≤ dx ∧ dx ≤ r) ∧ (-(r : Int) ≤ dy ∧ dy ≤ r) ∧ v = ⟨c.x + a * dx, c.y + a * dy⟩ := by
  simp only [grid, List.mem_flatMap, List.mem_map, mem_symmetricRange]
  constructor
  · rintro ⟨dy, hy, dx, hx, rfl⟩; exact ⟨dx, dy, hx, hy, rfl⟩
  · rintro ⟨dx, dy, hx, hy, rfl⟩; exact ⟨dy, hy, dx, hx, rfl⟩

end Sys2Proof.Machine
end

