-- ==== Sys2Proof/Laws/Sink.lean ====
section
/-! SUPPORT. What appending to the bit sink can do (rule R251). -/

namespace Sys2Proof.Machine

@[simp] theorem appendBits_nil (k : SinkRegs × Memory) : appendBits k [] = k := rfl

@[simp] theorem appendBits_cons (k : SinkRegs × Memory) (c : Bool) (l : List Bool) :
    appendBits k (c :: l) = appendBits (appendBit k c) l := rfl

theorem appendBits_append (k : SinkRegs × Memory) (l l' : List Bool) :
    appendBits k (l ++ l') = appendBits (appendBits k l) l' := by simp [appendBits]

/-- Everything one character does: either it completes no byte and memory stays, or the byte it completes is stored
and the partial byte is empty again. -/
theorem appendBit_cases (k : SinkRegs × Memory) (c : Bool) :
    (k.1.bitpos.toNat % 8 ≠ 7 ∧ (appendBit k c).2 = k.2 ∧
      (appendBit k c).1 =
        { k.1 with
          bitpos := k.1.bitpos + 1
          acc := if c then k.1.acc ||| (0x80#8 >>> (k.1.bitpos.toNat % 8)) else k.1.acc }) ∨
    (k.1.bitpos.toNat % 8 = 7 ∧ (appendBit k c).1 = { k.1 with bitpos := k.1.bitpos + 1, acc := 0 } ∧
      (appendBit k c).2 = k.2.write (k.1.base.toNat + (k.1.bitpos + 1).toNat / 8 - 1)
        (if c then k.1.acc ||| (0x80#8 >>> (k.1.bitpos.toNat % 8)) else k.1.acc)) := by
  unfold appendBit
  by_cases h : k.1.bitpos.toNat % 8 = 7
  · right; simp [h]
  · left; simp [h]

@[simp] theorem appendBit_base (k : SinkRegs × Memory) (c : Bool) : (appendBit k c).1.base = k.1.base := by
  unfold appendBit; simp only; split <;> rfl

@[simp] theorem appendBit_limit (k : SinkRegs × Memory) (c : Bool) : (appendBit k c).1.limit = k.1.limit := by
  unfold appendBit; simp only; split <;> rfl

@[simp] theorem appendBit_bitpos (k : SinkRegs × Memory) (c : Bool) :
    (appendBit k c).1.bitpos = k.1.bitpos + 1 := by
  unfold appendBit; simp only; split <;> rfl

@[simp] theorem appendBits_base (k : SinkRegs × Memory) (l : List Bool) : (appendBits k l).1.base = k.1.base := by
  induction l generalizing k with
  | nil => rfl
  | cons c l ih => simp [ih]

@[simp] theorem appendBits_limit (k : SinkRegs × Memory) (l : List Bool) : (appendBits k l).1.limit = k.1.limit := by
  induction l generalizing k with
  | nil => rfl
  | cons c l ih => simp [ih]

theorem appendBit_wf (k : SinkRegs × Memory) (c : Bool) (h : k.2.wf = true) : (appendBit k c).2.wf = true := by
  rcases appendBit_cases k c with ⟨-, h2, -⟩ | ⟨-, -, h2⟩
  · rw [h2]; exact h
  · rw [h2]; exact Memory.wf_write _ _ _ h

/-- Appending keeps the canonical form of memory. -/
theorem appendBits_wf (k : SinkRegs × Memory) (l : List Bool) (h : k.2.wf = true) : (appendBits k l).2.wf = true := by
  induction l generalizing k with
  | nil => exact h
  | cons c l ih => exact ih _ (appendBit_wf k c h)

/-- The number of bytes a stream needs, as the statements write it. -/
theorem bytesFor_eq (n : Nat) : bytesFor n = streamBytes n := by
  unfold bytesFor streamBytes; split <;> omega

/-- The first check of `PutBits`, as the statements write it. -/
theorem sinkFits_iff (s : State) (n : Nat) :
    sinkFits s n = true ↔ s.sink.bitpos.toNat + n < 2 ^ 32 ∧
      streamBytes (s.sink.bitpos.toNat + n) ≤ s.sink.limit.toNat := by
  unfold sinkFits sinkTotal
  rw [Bool.and_eq_true, decide_eq_true_iff, decide_eq_true_iff, bytesFor_eq, show (4294967296 : Nat) = 2 ^ 32 from rfl]

/-- The second check of `PutBits`, as the statements write it. -/
theorem sinkReaches_iff (s : State) (n : Nat) :
    sinkReaches s n = true ↔ s.sink.base.toNat + streamBytes (s.sink.bitpos.toNat + n) ≤ s.memSize := by
  unfold sinkReaches sinkTotal
  rw [decide_eq_true_iff, bytesFor_eq]

/-- Everything `putBits` can answer when it accepts. -/
theorem putBits_ok {s t : State} {l : List Bool} (h : putBits s l = .ok t) :
    sinkAccepts s l.length ∧ t = s.appended l := by
  unfold putBits at h
  split at h
  · rename_i he
    have hl : l = [] := by simpa using he
    subst hl
    cases h
    exact ⟨.inl rfl, rfl⟩
  · rw [require_bind_ok, require_bind_ok] at h
    obtain ⟨h1, h2, h3⟩ := h
    rw [sinkFits_iff] at h1
    rw [sinkReaches_iff] at h2
    exact ⟨.inr ⟨h1.1, h1.2, h2⟩, (Except.ok.inj h3).symm⟩

/-- `putBits` accepts where both of its checks pass. -/
theorem putBits_of_accepts (s : State) (l : List Bool) (h : sinkAccepts s l.length) :
    putBits s l = .ok (s.appended l) := by
  unfold putBits
  split
  · rename_i he
    have hl : l = [] := by simpa using he
    subst hl; rfl
  · rename_i he
    rcases h with h | ⟨h1, h2, h3⟩
    · exact absurd (List.isEmpty_iff.mpr (List.length_eq_zero_iff.mp h)) he
    · rw [require_bind_ok, require_bind_ok, sinkFits_iff, sinkReaches_iff]
      exact ⟨⟨h1, h2⟩, h3, rfl⟩

end Sys2Proof.Machine
end

