-- ==== Sys2Proof/Tests/Slice0.lean ====
section
/-! SUPPORT. The model's own tests: words written out from the spec's encodings, at most two single steps per command
with the spec's own examples, and a concrete case that meets the hypotheses of each statement. -/

namespace Sys2Proof.Tests

open Sys2Proof.Machine

/-! ### Well-formedness (rule R117): `PUTB` counts 0, 33 and 63 are refused, 1 and 32 accepted -/

theorem test_wellFormed_putb_0 : (Instr.putb 1 0).wellFormed = false := by decide
theorem test_wellFormed_putb_33 : (Instr.putb 1 33).wellFormed = false := by decide
theorem test_wellFormed_putb_63 : (Instr.putb 1 63).wellFormed = false := by decide
theorem test_wellFormed_putb_1 : (Instr.putb 1 1).wellFormed = true := by decide
theorem test_wellFormed_putb_32 : (Instr.putb 1 32).wellFormed = true := by decide

/-! ### Decoding: the worked words of rule R119 -/

theorem test_decode_nop : decodeWord 0x0C000000 = .ok .nop := rfl
theorem test_decode_halt : decodeWord 0x04000000 = .ok .halt := rfl
theorem test_decode_br_self : decodeWord 0x083FFFFF = .ok (.br .al 0x3FFFFF) := rfl
theorem test_decode_br_ne : decodeWord 0x08800003 = .ok (.br .ne 3) := rfl
theorem test_decode_addi : decodeWord 0x1040FFFF = .ok (.addi 1 0 0xFFFF) := rfl
theorem test_decode_ori : decodeWord 0x14881234 = .ok (.ori 2 2 0x1234) := rfl
theorem test_decode_lui : decodeWord 0x18800010 = .ok (.lui 2 0x10) := rfl
theorem test_decode_add : decodeWord 0x20C48000 = .ok (.add 3 1 2) := rfl
theorem test_decode_sub : decodeWord 0x24C48000 = .ok (.sub 3 1 2) := rfl
theorem test_decode_cmp : decodeWord 0x28048000 = .ok (.cmp 1 2) := rfl
theorem test_decode_ldw : decodeWord 0x31140008 = .ok (.ldw 4 5 8) := rfl
theorem test_decode_stw : decodeWord 0x3514FFFC = .ok (.stw 4 5 0xFFFC) := rfl
theorem test_decode_rdcsr : decodeWord 0x3980003A = .ok (.rdcsr 6 0x3A) := rfl
theorem test_decode_wrcsr : decodeWord 0x3C1C0041 = .ok (.wrcsr 0x41 7) := rfl
theorem test_decode_ldcur : decodeWord 0x40040000 = .ok (.ldcur 1) := rfl
theorem test_decode_metric : decodeWord 0x4484C005 = .ok (.metric .ssd .backward 2 1 3) := rfl
theorem test_decode_act : decodeWord 0x48800000 = .ok (.act .sad 2) := rfl
theorem test_decode_msrch : decodeWord 0x50840002 = .ok (.msrch .sad .bidirectional 2 1) := rfl
theorem test_decode_mdec : decodeWord 0x54C00000 = .ok (.mdec 3) := rfl
theorem test_decode_tqmb : decodeWord 0x60000001 = .ok (.tqmb .forward) := rfl
theorem test_decode_ecmb : decodeWord 0x70000000 = .ok .ecmb := rfl
theorem test_decode_putb : decodeWord 0x74040018 = .ok (.putb 1 24) := rfl
theorem test_decode_putb_32 : decodeWord 0x74040020 = .ok (.putb 1 32) := rfl
theorem test_decode_align : decodeWord 0x78000000 = .ok .align := rfl
theorem test_decode_flush : decodeWord 0x7C000000 = .ok .flush := rfl
theorem test_decode_frmbeg : decodeWord 0x80000001 = .ok (.frmbeg .predicted) := rfl
theorem test_decode_frmend : decodeWord 0x84000000 = .ok .frmend := rfl
theorem test_decode_frmnext : decodeWord 0x88000001 = .ok (.frmnext true) := rfl
theorem test_decode_frmnext_d : decodeWord 0x88000000 = .ok (.frmnext false) := rfl

/-! ### Illegal words (`95_test_vectors.md` section 2.1) -/

theorem test_illegal_zero : decodeWord 0x00000000 = .error .unassignedOpcode := rfl
theorem test_illegal_ones : decodeWord 0xFFFFFFFF = .error .unassignedOpcode := rfl
theorem test_illegal_op_0B : decodeWord 0x2C000000 = .error .unassignedOpcode := rfl
theorem test_illegal_op_23 : decodeWord 0x8C000000 = .error .unassignedOpcode := rfl
theorem test_illegal_nop_low_bit : decodeWord 0x0C000001 = .error .mustBeZero := rfl
theorem test_illegal_add_mode : decodeWord 0x20C48001 = .error .mustBeZero := rfl
theorem test_illegal_lui_ra : decodeWord 0x18840010 = .error .mustBeZero := rfl
theorem test_illegal_cmp_rd : decodeWord 0x28448000 = .error .mustBeZero := rfl
theorem test_illegal_wrcsr_rd : decodeWord 0x3C5C0041 = .error .mustBeZero := rfl
theorem test_illegal_br_cond_11 : decodeWord 0x0AC00000 = .error .badCondition := rfl
theorem test_illegal_msrch_dir_3 : decodeWord 0x50840003 = .error .badDirection := rfl
theorem test_illegal_frmbeg_type_3 : decodeWord 0x80000003 = .error .badFrameType := rfl
theorem test_illegal_tqmb_m2 : decodeWord 0x60000004 = .error .mustBeZero := rfl
theorem test_illegal_frmnext_m1 : decodeWord 0x88000002 = .error .mustBeZero := rfl
theorem test_illegal_putb_0 : decodeWord 0x74040000 = .error .badCount := rfl
theorem test_illegal_putb_33 : decodeWord 0x74040021 = .error .badCount := rfl

/-! ### Bytes and table numbers -/

/-- Rule R322 (b): `FRMBEG.I` is stored as the bytes `00 00 00 80`. -/
theorem test_bytes_frmbeg : bytesOfWord 0x80000000 = [0x00, 0x00, 0x00, 0x80] := by decide

/-- The lowest byte of a command word is stored first (rule R81a). -/
theorem test_decode_bytes : decode [0xFF, 0xFF, 0x40, 0x10, 7] = .ok (.addi 1 0 0xFFFF, [7]) := rfl

theorem test_decodeTableWord : decodeTableWord 32 0x3514FFFC = some (.stw 4 5 0xFFFC) := by decide

theorem test_decodeTableWord_illegal : decodeTableWord 32 0 = none := by decide

/-! ### Single steps (the examples of the rules) -/

/-- The state after an outcome; the reset state where there is none. -/
def after (o : Host.Outcome State Fault Refusal) : State :=
  match o with
  | .next t => t
  | .fault _ => State.reset
  | .refused _ => State.reset

/-- A state with `CP`, and three register values, set. -/
def start (cp r1 r2 r5 : Word) : State :=
  { State.reset with cp := cp, regs := ((State.reset.regs.set 1 r1).set 2 r2).set 5 r5 }

theorem test_nop : (after (exec .nop (start 0x100 0 0 0))).cp = 0x104 := by decide
theorem test_halt : (fun t : State => (t.cp, t.run.busy, t.run.halted, t.irq.status))
    (after (exec .halt { start 0x20 0 0 0 with run := ⟨true, false, false, false, true, false⟩ })) =
    (0x24, false, true, 1) := by decide
theorem test_br_taken : (after (exec (.br .ne (-3)) (start 0x40 0 0 0))).cp = 0x38 := by decide
theorem test_br_not_taken :
    (after (exec (.br .ne (-3)) { start 0x40 0 0 0 with flags := ⟨true, false, false, false, false⟩ })).cp = 0x44 := by
  decide
theorem test_addi_wraps : (after (exec (.addi 1 1 1) (start 0 0xFFFFFFFF 0 0))).x 1 = 0 := by decide
theorem test_addi_r0 : (after (exec (.addi 0 0 5) (start 0 0 0 0))).x 0 = 0 := by decide
theorem test_ori : (after (exec (.ori 2 2 0x20) (start 0 0 0x00100000 0))).x 2 = 0x00100020 := by decide
theorem test_lui : (after (exec (.lui 2 0x10) (start 0 0 0 0))).x 2 = 0x00100000 := by decide
theorem test_add_wraps : (after (exec (.add 3 1 2) (start 0 5 0xFFFFFFFE 0))).x 3 = 3 := by decide
theorem test_sub_wraps : (after (exec (.sub 3 1 2) (start 0 3 5 0))).x 3 = 0xFFFFFFFE := by decide
theorem test_cmp_signs : (after (exec (.cmp 1 2) (start 0 0xFFFFFFFF 1 0))).flags =
    ⟨false, true, false, false, false⟩ := by decide
theorem test_ldw_little_endian :
    (after (exec (.ldw 4 5 8)
      { start 0 0 0 0xFF8 with mem := [(0x1000, 0x78), (0x1001, 0x56), (0x1002, 0x34), (0x1003, 0x12)] })).x 4 =
      0x12345678 := by decide
theorem test_ldw_misaligned : (after (exec (.ldw 4 5 2) (start 0 0 0 0x1000))).cause = ⟨4, 0, 0x1002⟩ := by decide
theorem test_stw_little_endian : (after (exec (.stw 1 5 (-4)) (start 0 0xAABBCCDD 0 0x2004))).mem =
    [(0x2000, 0xDD), (0x2001, 0xCC), (0x2002, 0xBB), (0x2003, 0xAA)] := by decide
theorem test_stw_past_memory :
    (after (exec (.stw 1 5 0) { start 0 0 0 0x1000 with memSize := 0x1002 })).cause = ⟨3, 0, 0x1000⟩ := by decide
theorem test_rdcsr :
    (after (exec (.rdcsr 6 0x3A) { State.reset with me := { State.reset.me with mdist := 1234 } })).x 6 = 1234 := by
  decide
theorem test_rdcsr_absent : (after (exec (.rdcsr 6 0x280) State.reset)).cause = ⟨5, 0, 0x280⟩ := by decide
theorem test_wrcsr_keeps_implemented_bits :
    (after (exec (.wrcsr 0x41 1) (start 0 0x2C 0 0))).quant.qscale = 12 := by decide
theorem test_wrcsr_frame_locked :
    (after (exec (.wrcsr 0x10 1) { State.reset with frame := { State.reset.frame with fs := .complete } })).cause =
      ⟨6, 0, 3⟩ := by decide

/-! #### Datapath commands -/

/-- One 16 by 16 bidirectional frame, open, with the only unit loaded; slot 0 valid, its luma plane at 0x4000. -/
def small : State :=
  { State.reset with
    cfg := { State.reset.cfg with
      frmw := 16, frmh := 16, recY := 0x1000, recCb := 0x1100, recCr := 0x1140
      refs := State.reset.cfg.refs.set 0 ⟨true, 0, 0x4000, 0x4100, 0x4140⟩
      sradius := 1, refWin := 1, qinit := 8 }
    frame := ⟨.selecting, false, .bidirectional, 0, 0⟩
    cur := { State.reset.cur with valid := true }
    quant := { State.reset.quant with qscale := 8, prevq := 8 }
    sink := ⟨0x8000, 0x1000, 0, 0⟩ }

/-- The small frame with every sample of the unit equal to `v`. -/
def flat (v : Byte) : State :=
  { small with cur := ⟨Vector.replicate 256 v, Vector.replicate 64 v, Vector.replicate 64 v, 0, true⟩ }

/-- The unit all 10 and the reference luma plane all 13 (rule R178). -/
def tenThirteen : State :=
  { flat 10 with mem := (List.range 256).map fun k => (0x4000 + k, 13) }

/-- Rule R175's example: `W = 32`, `CURY = 0x1000`, the unit at (16, 0); row 2, column 3 is the byte at
`0x1000 + 32*2 + 16 + 3`. -/
theorem test_ldcur : (fun t : State => (t.cur.y[35], t.cur.y[34], t.cur.pos, t.cur.valid))
    (after (exec (.ldcur 1)
      { start 0 0x10 0 0 with
        cfg := { State.reset.cfg with frmw := 32, frmh := 16, curY := 0x1000 }
        frame := ⟨.selecting, false, .intra, 0, 0⟩
        mem := [(0x1053, 7)] })) = (7, 0, 0x10, true) := by decide +kernel

theorem test_metric_sad : (after (exec (.metric .sad .forward 2 0 0) tenThirteen)).x 2 = 768 := by decide +kernel
theorem test_metric_ssd : (after (exec (.metric .ssd .forward 2 0 0) tenThirteen)).x 2 = 2304 := by decide +kernel

/-- Rule R180's example: the left eight columns 0, the right eight 16. -/
theorem test_act : (fun t : State => (t.x 2, t.me.actcost))
    (after (exec (.act .sad 2)
      { small with cur := { small.cur with y := Vector.ofFn fun k => if k.val % 16 < 8 then 0 else 16 } })) =
    (2048, 2048) := by decide +kernel

/-- In a frame of one unit only the zero vector is a candidate (rule R190); its distortion is that of the metric. -/
theorem test_msrch : (fun t : State => (t.x 2, t.me.mvf, t.me.distf, t.me.mdist, t.me.memode))
    (after (exec (.msrch .sad .forward 2 0) tenThirteen)) = (768, 0, 768, 768, .forward) := by decide +kernel

/-- Rule R200's examples. -/
theorem test_mdec_inter : (fun t : State => (t.x 3, t.flags.z))
    (after (exec (.mdec 3) { small with
      frame := { small.frame with ftype := .predicted }
      me := { small.me with actcost := 1000, mdist := 900, intraBias := 64, memode := .forward } })) = (1, false) := by
  decide
theorem test_mdec_tie : (fun t : State => (t.x 3, t.flags.z))
    (after (exec (.mdec 3) { small with
      frame := { small.frame with ftype := .predicted }
      me := { small.me with actcost := 1000, mdist := 900, intraBias := 100, memode := .forward } })) = (0, true) := by
  decide

/-- Rule R233's example: every sample 128, scale 8, the DCT. -/
theorem test_tqmb : (fun t : State =>
      (t.qc[0][0], t.qc[1][0], t.qc[4][0], t.quant.dcpy, t.quant.mbq, t.flags.esc))
    (after (exec (.tqmb .intra) (flat 128))) = (128, 0, 128, 16384, 8, false) := by decide +kernel

/-- The same example: every reconstructed sample is 128. -/
theorem test_reconstruct : reconstruct false (List.replicate 64 16) 8 (List.replicate 64 0) (128 :: List.replicate 63 0) =
    List.replicate 64 128 := by decide +kernel

/-- Rule R222: the zigzag walks the diagonals in turn, downwards on odd ones and upwards on even ones. -/
theorem test_zigzag :
    zigzag.Perm (List.range 64) ∧ ∀ n : Fin 63,
      (zigzag.getD n 0) / 8 + (zigzag.getD n 0) % 8 + 1 = (zigzag.getD (n + 1) 0) / 8 + (zigzag.getD (n + 1) 0) % 8 ∨
      ((zigzag.getD n 0) / 8 + (zigzag.getD n 0) % 8 = (zigzag.getD (n + 1) 0) / 8 + (zigzag.getD (n + 1) 0) % 8 ∧
        if ((zigzag.getD n 0) / 8 + (zigzag.getD n 0) % 8) % 2 = 1
        then (zigzag.getD (n + 1) 0) / 8 = (zigzag.getD n 0) / 8 + 1
        else (zigzag.getD n 0) / 8 = (zigzag.getD (n + 1) 0) / 8 + 1) := by decide +kernel

/-- Rule R259: levels 3 at 0, -1 at 2, 2 at 11. -/
theorem test_blockBits :
    blockBits ([3, 0, -1, 0, 0, 0, 0, 0, 0, 0, 0, 2] ++ List.replicate 52 0) =
      bits [0, 0, 1, 0, 1, 0, 0, 1, 1, 1, 0, 0, 0, 0, 0, 1, 0, 0, 1, 0, 0, 0, 0, 0, 0, 0, 0, 0, 0, 1, 0, 1, 0] := by
  decide

/-- Rule R264's example: the all-128 unit has a record of 78 bits; the first byte is the tag `10`, the delta `0` and
the first bits of the escape. -/
theorem test_ecmb : (fun t : State => (t.sink.bitpos, t.mem.read 0x8000, t.frame.mbcount, t.frame.uphase, t.cur.valid))
    (after (exec .ecmb { small with
      frame := ⟨.encoding, true, .intra, 0, 0⟩
      quant := { small.quant with mbq := 8 }
      qc := ((State.reset.qc.set 0 (State.reset.qc[0].set 0 128)).set 4 (State.reset.qc[0].set 0 128)).set 5
        (State.reset.qc[0].set 0 128) })) = (78, 0x80, 1, false, false) := by decide +kernel

/-- Rule R255's example. -/
theorem test_putb : (after (exec (.putb 1 24) { start 0 0x1B3 0 0 with sink := ⟨0x8000, 4, 0, 0⟩ })).mem =
    [(0x8001, 0x01), (0x8002, 0xB3)] := by decide +kernel

/-- Rule R322 (d): the sink is full. -/
theorem test_putb_full : (fun t : State => (t.cause, t.sink.bitpos))
    (after (exec (.putb 1 24) { start 0x100 0x1B3 0 0 with sink := ⟨0x8000, 2, 0, 0⟩ })) = (⟨9, 0x100, 24⟩, 0) := by
  decide

/-- Rule R253's example. -/
theorem test_align : (fun t : State => (t.mem, t.sink.bitpos, t.sink.acc))
    (after (exec .align { State.reset with sink := ⟨0x8000, 4, 27, 0xA0⟩ })) =
    ([(0x8003, 0xA0)], 32, 0) := by decide +kernel

/-- Rule R254's example. -/
theorem test_flush : (fun t : State => (t.mem, t.sink.bitpos, t.sink.acc))
    (after (exec .flush { State.reset with sink := ⟨0x8000, 4, 27, 0xA0⟩ })) = ([(0x8003, 0xA0)], 27, 0xA0) := by decide

/-- Rule R281's example: the header is the bytes `88 01 01`. -/
theorem test_frmbeg : (fun t : State => (t.mem, t.frame.fs, t.quant.qscale, t.sink.bitpos))
    (after (exec (.frmbeg .intra) { small with frame := State.reset.frame })) =
    ([(0x8000, 0x88), (0x8001, 0x01), (0x8002, 0x01)], .selecting, 8, 24) := by decide +kernel

/-- Rule R322 (b): a frame begun without configuration. -/
theorem test_frmbeg_unconfigured : (after (exec (.frmbeg .intra) State.reset)).cause = ⟨8, 0, 1⟩ := by decide

/-- Rule R285's example: ten bits appended after 102. -/
theorem test_frmend : (fun t : State => (t.sink.bitpos, t.sink.acc, t.frame.fs))
    (after (exec .frmend { small with
      frame := ⟨.encoding, false, .intra, 0, 1⟩, sink := ⟨0x8000, 0x1000, 102, 0⟩ })) = (112, 0, .complete) := by decide

/-- Rule R286's example: `REFWIN = 2`, slots 4 and 3, `FINDEX = 5`. -/
theorem test_frmnext : (fun t : State =>
      (t.cfg.refs[0], t.cfg.refs[1].valid, t.cfg.refs[1].index, t.cfg.refs[2].valid, t.cfg.refs[2].index,
        t.frame.findex, t.frame.fs))
    (after (exec (.frmnext true) { small with
      cfg := { small.cfg with
        refWin := 2
        refs := #v[⟨true, 4, 0, 0, 0⟩, ⟨true, 3, 0, 0, 0⟩, ⟨false, 0, 0, 0, 0⟩, ⟨false, 0, 0, 0, 0⟩] }
      frame := ⟨.complete, false, .predicted, 5, 1⟩ })) =
    (⟨true, 5, 0x1000, 0x1100, 0x1140⟩, true, 4, false, 3, 6, .awaiting) := by decide

/-! #### The machine around a command -/

/-- Rule R322 (a): erased memory stops the engine at once. -/
theorem test_step_illegal : (fun t : State => (statusWord t, t.cause, t.cp, t.irq.status))
    (after (step { State.reset with run := { State.reset.run with busy := true } })) = (4, ⟨1, 0, 0⟩, 0, 2) := by decide

/-- Rule R322 (c): `ECMB` after reset is a StateFault with detail 0. -/
theorem test_step_ecmb : (after (step (State.reset.withFetchWord 32 0x70000000))).cause = ⟨6, 0, 0⟩ := by decide

/-- A placed word is the next instruction run. -/
theorem test_withFetchWord : (after (step (State.reset.withFetchWord 32 0x1040FFFF))).x 1 = 0xFFFFFFFF := by decide

/-- Rule R322 (d): one write of `CLRFAULT` and `GO` resumes the faulted engine. -/
theorem test_resume : (fun t : State => (statusWord t, t.cause))
    (after (step { State.reset with
      run := ⟨false, false, true, false, false, false⟩, cause := ⟨9, 0x100, 24⟩
      host := ⟨[.host (.writeReg 1 5)], 0⟩ })) = (1, ⟨0, 0, 0⟩) := by decide

/-- A read-only register refuses the host's write (rule R321). -/
theorem test_host_refused :
    (after (step { State.reset with host := ⟨[.host (.writeReg 0 7)], 0⟩ })).run.hwErr = true := by decide

/-! ### Cases that meet the hypotheses of the statements, clause by clause -/

theorem witness_DecodeEncode : (Instr.putb 15 1).wellFormed = true ∧ (Instr.putb 0 32).wellFormed = true := by decide

theorem witness_DecodeStrict : decodeWord 0x74040020 = .ok (.putb 1 32) ∧ decodeWord 0x0A800000 = .ok (.br .nexh 0) :=
  ⟨rfl, rfl⟩

theorem witness_OpcodeMap : decodeWord 0x74040020 = .ok (.putb 1 32) ∧
    (0x0A800000 : Word) &&& (opcodeRow (.br .al 0)).mask = (opcodeRow (.br .al 0)).fixed ∧
    valuesLegal 0x0A800000 := by
  refine ⟨rfl, by decide, ?_⟩
  unfold valuesLegal
  decide

/-- The engine running with `NOP` at its `CP`. -/
def running : State := State.reset.withFetchWord 32 0x0C000000

/-- A state with these turns in its host script. -/
def scripted (s : State) (turns : List Turn) : State := { s with host := ⟨turns, 0⟩ }

theorem engineTurn_scripted (s : State) (turns : List Turn) :
    engineTurn (scripted s (.engine :: turns)) (scripted s turns) := .inr ⟨turns, rfl, rfl⟩

theorem witness_StepRunsDecoded :
    (running.run.busy = true ∧ running.run.stopReq = false ∧ running.cp.toNat % 4 = 0 ∧
      running.cp.toNat + 4 ≤ running.memSize ∧
      decode [running.mem.read running.cp.toNat, running.mem.read (running.cp.toNat + 1),
        running.mem.read (running.cp.toNat + 2), running.mem.read (running.cp.toNat + 3)] = .ok (.nop, [])) ∧
    engineTurn running running ∧ engineTurn (scripted running [.engine]) (scripted running []) ∧
    (scripted running [.host .resetInput]).host.script = .host .resetInput :: [] :=
  ⟨⟨rfl, rfl, rfl, by decide, rfl⟩, .inl ⟨rfl, rfl⟩, engineTurn_scripted _ _, rfl⟩

/-- The engine running at `cp` in a memory of `n` bytes. -/
def at_ (cp : Word) (n : Nat) : State :=
  { State.reset with cp := cp, memSize := n, run := { State.reset.run with busy := true } }

theorem witness_FetchFaults :
    (engineTurn (at_ 3 8) (at_ 3 8) ∧ (at_ 3 8).run.busy = true ∧ (at_ 3 8).run.stopReq = false) ∧
    engineTurn (scripted (at_ 3 8) [.engine, .engine]) (scripted (at_ 3 8) [.engine]) ∧
    (at_ 3 8).cp.toNat % 4 ≠ 0 ∧
    ((at_ 4 7).cp.toNat % 4 = 0 ∧ (at_ 4 7).memSize < (at_ 4 7).cp.toNat + 4) ∧
    ((at_ 4 8).cp.toNat % 4 = 0 ∧ (at_ 4 8).cp.toNat + 4 ≤ (at_ 4 8).memSize ∧
      decodeWord ((at_ 4 8).mem.readWord (at_ 4 8).cp.toNat) = .error .unassignedOpcode) :=
  ⟨⟨.inl ⟨rfl, rfl⟩, rfl, rfl⟩, engineTurn_scripted _ _, by decide, by decide, by decide, by decide, rfl⟩

theorem witness_StopAndIdle :
    (({ at_ 0 8 with run := ⟨true, false, false, false, true, false⟩ } : State).run.stopReq = true ∧
      engineTurn { at_ 0 8 with run := ⟨true, false, false, false, true, false⟩ }
        { at_ 0 8 with run := ⟨true, false, false, false, true, false⟩ }) ∧
    (scripted State.reset [.engine]).run.busy = false ∧
    (scripted State.reset [.engine]).host.script = .engine :: [] ∧
    (State.reset.run.busy = false ∧ State.reset.host.script = []) :=
  ⟨⟨rfl, .inl ⟨rfl, rfl⟩⟩, rfl, rfl, rfl, rfl⟩

theorem witness_EveryCommandHasAnOutcome :
    step State.reset = .fault .noAgentSteps ∧
    step { State.reset with host := ⟨[.host (.readByte 4294967296)], 0⟩ } = .fault (.hostAddressAbsent 4294967296) :=
  ⟨rfl, rfl⟩

theorem witness_FaultsAreVoid : ∃ t, exec .ecmb State.reset = .next t ∧ State.reset.run.fault = false ∧
    t.run.fault = true := ⟨_, rfl, rfl, rfl⟩

theorem witness_EngineCannot :
    (∃ t, exec .nop State.reset = .next t ∧ State.reset.run.busy = false) ∧
    (∃ t, exec .nop small = .next t ∧ small.frame.fs ≠ .awaiting ∧ t.frame.fs ≠ .awaiting) ∧
    (∃ t, exec .ecmb (faulted State.reset 6 0) = .next t ∧ (faulted State.reset 6 0).run.fault = true) :=
  ⟨⟨_, rfl, rfl⟩, ⟨_, rfl, by decide, by decide⟩, ⟨_, rfl, rfl⟩⟩

theorem witness_Branch : opField 0x0AC00000 = 0x02 ∧ 11 ≤ (rdField 0x0AC00000).toNat := by decide

/-- A state whose `R5` holds an address, in a memory of `n` bytes. -/
def base (r5 : Word) (n : Nat) : State := { start 0 0 0 r5 with memSize := n }

theorem witness_LoadWord :
    ((effectiveAddress (base 4 8) 5 0).toNat % 4 = 0 ∧
      (effectiveAddress (base 4 8) 5 0).toNat + 4 ≤ (base 4 8).memSize) ∧
    (effectiveAddress (base 4 8) 5 0xFFFF).toNat % 4 ≠ 0 ∧
    ((effectiveAddress (base 4 7) 5 0).toNat % 4 = 0 ∧
      (base 4 7).memSize < (effectiveAddress (base 4 7) 5 0).toNat + 4) := by decide

theorem witness_StoreWord :
    ((effectiveAddress (base 4 8) 5 0xFFFC).toNat % 4 = 0 ∧
      (effectiveAddress (base 4 8) 5 0xFFFC).toNat + 4 ≤ (base 4 8).memSize) ∧
    (effectiveAddress (base 4 8) 5 1).toNat % 4 ≠ 0 ∧
    ((effectiveAddress (base 4 7) 5 0).toNat % 4 = 0 ∧
      (base 4 7).memSize < (effectiveAddress (base 4 7) 5 0).toNat + 4) := by decide

theorem witness_RegisterTable :
    (⟨0x05B, .acc, .ro, 0x000000FF, 0, fun s => s.sink.acc.toNat⟩ : RegisterRow) ∈ registerRows ∧
    Csr.refCr 3 ∈ [Csr.refCtl 3, .refY 3, .refCb 3, .refCr 3] ∧
    ((-255 : Int).natAbs ≤ 255 ∧ (State.reset.qc[5][63]).natAbs ≤ 255) := by
  refine ⟨by simp [registerRows, unitRows], by simp, by decide, by decide⟩

theorem witness_ReadRegister :
    csrOfNumber (0x27F : BitVec 16).toNat = some (.qc 5 63) ∧ csrOfNumber (0x280 : BitVec 16).toNat = none ∧
    csrOfNumber (0xFFFF : BitVec 16).toNat = none := by decide

theorem witness_WriteRegister :
    (csrOfNumber (0x009 : BitVec 16).toNat = some .flags ∧ csrClass .flags = .rw) ∧
    (csrOfNumber (0x0BF : BitVec 16).toNat = some (.qm 63) ∧ csrClass (.qm 63) = .rwf ∧
      State.reset.frame.fs = .awaiting ∧ small.frame.fs ≠ .awaiting) ∧
    (csrOfNumber (0x05A : BitVec 16).toNat = some .bitpos ∧ csrClass .bitpos = .rwf) ∧
    (csrOfNumber (0x05B : BitVec 16).toNat = some .acc ∧ csrClass .acc = .ro) ∧
    (csrOfNumber (0x007 : BitVec 16).toNat = some .irqst ∧ csrClass .irqst = .hc) ∧
    (csrOfNumber (0x008 : BitVec 16).toNat = some .cp ∧ csrClass .cp = .hi) ∧
    csrOfNumber (0x00A : BitVec 16).toNat = none := by decide

/-! #### Addresses of the small frame -/

theorem blockAddress_lt {b w x y cols rows a : Nat} (h : blockAddress b w x y cols rows a) :
    a < b + (y + rows) * w + x + cols := by
  obtain ⟨r, c, hr, hc, rfl⟩ := h
  have : (y + r) * w ≤ (y + rows) * w := Nat.mul_le_mul_right w (by omega)
  omega

theorem coding_small : coding small := .inl rfl

theorem not_coding_reset : ¬coding State.reset := by unfold coding; decide

theorem touched_small (y8 cb8 cr8 : Word) (a : Nat) (h1 : y8.toNat < 0x10000) (h2 : cb8.toNat < 0x10000)
    (h3 : cr8.toNat < 0x10000) (h : unitAddress small y8 cb8 cr8 0 0 a) : a < small.memSize := by
  rw [show small.memSize = 4294967296 from rfl]
  have w1 : lumaW small = 16 := rfl
  have w2 : chromaW small = 8 := rfl
  rcases h with h | h | h <;> have := blockAddress_lt h <;> simp only [w1, w2] at this <;> omega

/-- The small frame in a memory of one byte, with every plane at address 0. -/
def tiny : State :=
  { small with
    memSize := 1
    cfg := { small.cfg with
      recY := 0, recCb := 0, recCr := 0, refs := small.cfg.refs.set 0 ⟨true, 0, 0, 0, 0⟩ } }

/-- Address 1 is the lowest missing one wherever it is touched in a memory of one byte. -/
theorem lowestMissing_one (p : Nat → Prop) (h : p 1) : lowestMissing 1 p 1 := ⟨h, Nat.le_refl _, fun _ _ hb => hb⟩

theorem blockAddress_one (cols rows : Nat) (hc : 1 < cols) (hr : 0 < rows) (w : Nat) :
    blockAddress 0 w 0 0 cols rows 1 := ⟨0, 1, hr, hc, by simp⟩

theorem witness_LoadCurrentUnit :
    (coding small ∧ small.frame.uphase = false) ∧
    (0 ≤ lo16s (small.x 0) ∧ 0 ≤ hi16s (small.x 0) ∧ lo16s (small.x 0) % 16 = 0 ∧ hi16s (small.x 0) % 16 = 0 ∧
      lo16s (small.x 0) + 16 ≤ lumaW small ∧ hi16s (small.x 0) + 16 ≤ lumaH small) ∧
    (∀ a, unitAddress small small.cfg.curY small.cfg.curCb small.cfg.curCr 0 0 a → a < small.memSize) ∧
    ¬coding State.reset ∧
    ¬(lo16s (({ small with regs := small.regs.set 1 16 } : State).x 1) + 16 ≤ lumaW small) ∧
    lowestMissing tiny.memSize (unitAddress tiny tiny.cfg.curY tiny.cfg.curCb tiny.cfg.curCr 0 0) 1 :=
  ⟨⟨coding_small, rfl⟩, by decide, fun a h => touched_small _ _ _ a (by decide) (by decide) (by decide) h,
    not_coding_reset, by decide,
    lowestMissing_one _ (.inl (blockAddress_one 16 16 (by decide) (by decide) _))⟩

theorem witness_MetricSums : (∀ i j : Nat, (fun _ _ => 255 : Nat → Nat → Nat) i j ≤ 255) ∧
    (∀ i j : Nat, (fun _ _ => 0 : Nat → Nat → Nat) i j ≤ 255) := ⟨fun _ _ => Nat.le_refl _, fun _ _ => Nat.zero_le _⟩

theorem witness_PredictedBlock : (0 : Int) ≤ (⟨0, 1⟩ : Vec).x ∧ (0 : Int) ≤ (⟨0, 1⟩ : Vec).y := by decide

theorem witness_FootprintsInsidePlanes :
    insidePlane 1 0 16 17 16 ∧ ((16 : Int) % 16 = 0 ∧ (32 : Nat) % 2 = 0 ∧ insidePlane (2 * 16 + -1) (2 * 16 + 0) 16 32 32) := by
  unfold insidePlane; decide

theorem footprint_small (d : Dir) (a : Nat) (h : footprintAddress (refBase small d) (lumaW small) 0 0 16 a) :
    a < small.memSize := by
  rw [show small.memSize = 4294967296 from rfl]
  have w1 : lumaW small = 16 := rfl
  have w2 : refBase small d = 0x4000 := by cases d <;> rfl
  have := blockAddress_lt h
  simp only [w1, w2] at this
  norm_num at this
  omega

theorem witness_MetricCommand :
    (coding small ∧ small.cur.valid = true) ∧
    (((Dir.forward = .forward ∧ small.frame.ftype ≠ .intra) ∨
        (Dir.forward = .backward ∧ small.frame.ftype = .bidirectional)) ∧
      ((Dir.backward = .forward ∧ small.frame.ftype ≠ .intra) ∨
        (Dir.backward = .backward ∧ small.frame.ftype = .bidirectional))) ∧
    (0 ≤ lo16s (small.x 0) ∧ 0 ≤ hi16s (small.x 0) ∧ lo16s (small.x 0) + 16 ≤ lumaW small ∧
      hi16s (small.x 0) + 16 ≤ lumaH small) ∧
    insidePlane 0 0 16 (lumaW small) (lumaH small) ∧
    (∀ d a, footprintAddress (refBase small d) (lumaW small) 0 0 16 a → a < small.memSize) ∧
    ¬coding State.reset ∧
    (({ small with frame := { small.frame with ftype := .predicted } } : State).frame.ftype ≠ .bidirectional) ∧
    ¬(0 ≤ lo16s (({ small with regs := small.regs.set 1 0xFFFF } : State).x 1)) ∧
    ¬insidePlane 1 0 16 (lumaW small) (lumaH small) ∧
    lowestMissing tiny.memSize (footprintAddress (refBase tiny .forward) (lumaW tiny) 0 0 16) 1 :=
  ⟨⟨coding_small, rfl⟩, by decide, by decide, (by unfold insidePlane; decide), footprint_small,
    not_coding_reset, by decide, by decide, (by unfold insidePlane; decide),
    lowestMissing_one _ (blockAddress_one _ _ (by decide) (by decide) _)⟩

theorem witness_IntraCost : (coding small ∧ small.cur.valid = true) ∧ ¬(coding State.reset ∧ State.reset.cur.valid = true) :=
  ⟨⟨coding_small, rfl⟩, fun h => by cases h.2⟩

theorem witness_SearchIsLeast : 0 ≤ (⟨0, 0⟩ : Vec).x ∧ 0 ≤ (⟨0, 0⟩ : Vec).y ∧ (⟨0, 0⟩ : Vec).x + 16 ≤ lumaW small ∧
    (⟨0, 0⟩ : Vec).y + 16 ≤ lumaH small ∧ legalCandidate small 0 0 0 0 := by
  refine ⟨by decide, by decide, by decide, by decide, ?_⟩
  unfold legalCandidate insidePlane; decide

/-- An empty reference plane equals the small frame's unit, all zero. -/
theorem witness_SearchNeverWorse :
    (0 ≤ (⟨0, 0⟩ : Vec).x ∧ 0 ≤ (⟨0, 0⟩ : Vec).y ∧ (⟨0, 0⟩ : Vec).x + 16 ≤ lumaW small ∧
      (⟨0, 0⟩ : Vec).y + 16 ≤ lumaH small) ∧
    predBlock small.mem (refLuma small .forward) ⟨2 * 0, 2 * 0⟩ 16 = curLuma small :=
  ⟨by decide, by decide +kernel⟩

theorem witness_MotionSearch :
    (opField 0x50840003 = 0x14 ∧ ((0x50840003 : Word).extractLsb' 0 2).toNat = 3) ∧
    (coding small ∧ small.cur.valid = true) ∧ small.frame.ftype = .bidirectional ∧
    (0 ≤ lo16s (small.x 0) ∧ 0 ≤ hi16s (small.x 0) ∧ lo16s (small.x 0) + 16 ≤ lumaW small ∧
      hi16s (small.x 0) + 16 ≤ lumaH small) ∧
    (∀ a, (∃ d : Dir, searchUses .bidirectional d ∧ refBase small d ≤ a ∧
      a < refBase small d + lumaW small * lumaH small) → a < small.memSize) ∧
    ¬coding State.reset ∧
    ¬((SearchDir.backward = .forward ∧ FrameType.predicted ≠ .intra) ∨ FrameType.predicted = .bidirectional) ∧
    ¬(0 ≤ lo16s (({ small with regs := small.regs.set 1 0xFFFF } : State).x 1)) ∧
    lowestMissing tiny.memSize
      (fun a => ∃ d : Dir, searchUses .forward d ∧ refBase tiny d ≤ a ∧ a < refBase tiny d + lumaW tiny * lumaH tiny) 1 := by
  refine ⟨by decide, ⟨coding_small, rfl⟩, rfl, by decide, ?_, not_coding_reset, by decide, by decide,
    lowestMissing_one _ ⟨.forward, trivial, by decide, by decide⟩⟩
  rintro a ⟨d, -, -, h⟩
  rw [show small.memSize = 4294967296 from rfl]
  have w1 : lumaW small * lumaH small = 256 := rfl
  have w2 : refBase small d = 0x4000 := by cases d <;> rfl
  omega

theorem witness_ModeDecision : coding small ∧ ¬coding State.reset :=
  ⟨coding_small, not_coding_reset⟩

theorem witness_RoundedDivision : 0 < 1 := by decide

theorem witness_TransformSums : (predictUnit small .intra ⟨0, 0⟩).y.length = 256 ∧
    (predictUnit small .intra ⟨0, 0⟩).cb.length = 64 ∧ (predictUnit small .intra ⟨0, 0⟩).cr.length = 64 := by
  decide +kernel

theorem witness_TransformFacts : ((-255 : Int) ≤ 255 ∧ (255 : Int) ≤ 255) ∧
    ∀ v ∈ ([255, -255] : List Int), v.natAbs ≤ 255 := by decide

theorem witness_QuantizerPass :
    (List.replicate 64 16).length = 64 ∧ (List.replicate 64 (0 : Int)).length = 64 ∧
    [(Component.cr, List.replicate 64 (0 : Int))][0]? = some (.cr, List.replicate 64 0) ∧
    (quantPass true (List.replicate 64 16) 31 false [(.cr, List.replicate 64 0)] ⟨0, 0, 0x7FFFFFFF⟩).overflow = true ∧
    (quantBlock true (List.replicate 64 16) 31 false (List.replicate 64 0) 0x7FFFFFFF).overflow = true := by
  decide +kernel

/-- A unit of zeros with an extreme predictor overflows at the largest scale; with predictor 0 it does not. -/
theorem witness_Escalation :
    (escalate true (List.replicate 64 16) (blockComponents.zip (List.replicate 6 (List.replicate 64 0)))
      ⟨0x7FFFFFFF, 0, 0⟩ 0).exhausted = true ∧
    (escalate true (List.replicate 64 16) (blockComponents.zip (List.replicate 6 (List.replicate 64 0)))
      ⟨0, 0, 0⟩ 0).exhausted = false := by decide +kernel

theorem witness_DcContinuity_pass :
    (List.replicate 64 255).length = 64 ∧ 1 ≤ 31 ∧ 31 ≤ 31 ∧ (∀ m ∈ List.replicate 64 255, 1 ≤ m ∧ m ≤ 255) ∧
    (2040 :: List.replicate 63 (0 : Int)).length = 64 ∧ (2040 :: List.replicate 63 (5 : Int)).length = 64 ∧
    (2040 :: List.replicate 63 (0 : Int)).getD 0 0 = (2040 :: List.replicate 63 (5 : Int)).getD 0 0 ∧
    ((2040 :: List.replicate 63 (0 : Int)).getD 0 0).natAbs ≤ 2040 := by decide

theorem witness_Reconstruction :
    (List.replicate 64 16).length = 64 ∧ (List.replicate 64 (255 : Int)).length = 64 ∧
    (List.replicate 64 (-1 : Int)).length = 64 ∧ (∀ v ∈ List.replicate 64 (255 : Int), 0 ≤ v ∧ v ≤ 255) := by decide

/-- The small frame is a state in which `TQMB` passes its checks, in every mode and for every unit of one sample value. -/
theorem tqmbPasses_flat (v : Byte) (mode : CodingMode) : tqmbPasses (flat v) mode := by
  refine ⟨⟨.inl rfl, rfl, rfl⟩, .inr (.inl rfl), (by decide : small.quant.qscale ≠ 0),
    (by decide : small.cur.pos = pack (16 * (small.frame.mbcount.toNat % unitsWide small) : Nat)
      (16 * (small.frame.mbcount.toNat / unitsWide small) : Nat)),
    fun _ => ?_, fun _ => ?_, ?_⟩
  · show legalCandidate small (lo16s small.cur.pos) (hi16s small.cur.pos) (lo16s small.me.mvf) (hi16s small.me.mvf)
    unfold legalCandidate insidePlane; decide
  · show legalCandidate small (lo16s small.cur.pos) (hi16s small.cur.pos) (lo16s small.me.mvb) (hi16s small.me.mvb)
    unfold legalCandidate insidePlane; decide
  · show ∀ a, tqmbTouches small mode a → a < small.memSize
    rintro a (h | ⟨slot, mv, hs, h⟩)
    · exact touched_small _ _ _ a (by decide) (by decide) (by decide) h
    · have hslot : slot = small.cfg.refs[0] := by rcases hs with ⟨-, h, -⟩ | ⟨-, h, -⟩ <;> exact h
      have hmv : mv = 0 := by rcases hs with ⟨-, -, h⟩ | ⟨-, -, h⟩ <;> exact h
      subst hslot hmv
      rw [show small.memSize = 4294967296 from rfl]
      have w1 : lumaW small = 16 := rfl
      have w2 : chromaW small = 8 := rfl
      rcases h with h | h | h
      · have h' : a < 0x4000 + (0 + 16) * 16 + 0 + 16 := blockAddress_lt h
        omega
      · have h' : a < 0x4100 + (0 + 8) * 8 + 0 + 8 := blockAddress_lt h
        omega
      · have h' : a < 0x4140 + (0 + 8) * 8 + 0 + 8 := blockAddress_lt h
        omega

/-- The all-128 unit of rule R233 coded, and the state before the next Intra unit, which finds its predictors. -/
theorem witness_DcContinuity :
    let t := after (exec (.tqmb .intra) (flat 128))
    let next : State := { flat 128 with quant := { small.quant with dcpy := 16384, dcpcb := 16384, dcpcr := 16384 } }
    (t.run.fault, t.flags.exh, t.quant.mbq, t.quant.dcpy, t.quant.dcpcb, t.quant.dcpcr) =
      (false, false, 8, next.quant.dcpy, next.quant.dcpcb, next.quant.dcpcr) ∧
    (after (exec (.tqmb .intra) next)).quant.mbq = 8 ∧ (after (exec (.tqmb .intra) next)).run.fault = false ∧
    (intraDc next 0, intraDc next 4, intraDc next 5) = (intraDc (flat 128) 3, intraDc (flat 128) 4, intraDc (flat 128) 5) ∧
    tqmbPasses (flat 128) .intra ∧ tqmbPasses next .intra ∧
    ((0x047 : BitVec 16) ≠ 0x048 ∧ (0x047 : BitVec 16) ≠ 0x049 ∧ (0x047 : BitVec 16) ≠ 0x04A) :=
  ⟨by decide +kernel, by decide +kernel, by decide +kernel, by decide +kernel, tqmbPasses_flat 128 .intra,
    tqmbPasses_flat 128 .intra, by decide⟩

theorem witness_TransformUnit : tqmbPasses (flat 255) .interpolated := tqmbPasses_flat 255 .interpolated

/-- The first and the last sample of the unit, stored where no later sample is. -/
theorem witness_ReconstructedSamples : tqmbPasses (flat 128) .backward ∧
    (∀ m', 0 < m' → m' < 384 → samplePlace (flat 128) m' ≠ samplePlace (flat 128) 0) ∧
    (∀ m', 383 < m' → m' < 384 → samplePlace (flat 128) m' ≠ samplePlace (flat 128) 383) := by
  refine ⟨tqmbPasses_flat 128 .backward, fun m' h1 h2 => ?_, fun m' h1 h2 => by omega⟩
  have h : ∀ m', samplePlace (flat 128) m' =
      if m' / 64 < 4 then 0x1000 + (0 + 8 * (m' / 64 / 2) + m' % 64 / 8) * 16 + (0 + 8 * (m' / 64 % 2) + m' % 8)
      else (if m' / 64 = 4 then (0x1100 : Word) else 0x1140).toNat + (0 / 2 + m' % 64 / 8) * 8 + (0 / 2 + m' % 8) :=
    fun _ => rfl
  rw [h, h]
  split
  · simp only [Nat.zero_div, Nat.zero_mod]; split <;> omega
  · split <;> simp <;> omega

theorem witness_TransformUnitFaults :
    ¬coding State.reset ∧
    ¬(CodingMode.backward = .intra ∨ FrameType.predicted = .bidirectional ∨
      (FrameType.predicted = .predicted ∧ CodingMode.backward = .forward)) ∧
    ¬(({ small with quant := { small.quant with qscale := 0 } } : State).quant.qscale ≠ 0) ∧
    ¬((16 : Word) = pack (16 * (small.frame.mbcount.toNat % unitsWide small) : Nat)
      (16 * (small.frame.mbcount.toNat / unitsWide small) : Nat)) ∧
    ¬legalCandidate small 0 0 (lo16s 1) (hi16s 1) ∧
    lowestMissing tiny.memSize (tqmbTouches tiny .intra) 1 :=
  ⟨not_coding_reset, by decide, by decide, by decide,
    by (unfold legalCandidate insidePlane; decide),
    lowestMissing_one _ (.inl (.inl (blockAddress_one 16 16 (by decide) (by decide) _)))⟩

/-! #### The sink -/

theorem sinkOk_reset : sinkOk State.reset := fun k _ => by simp [State.reset]

theorem witness_SinkAppends :
    sinkOk { State.reset with sink := ⟨0, 0, 0xFFFFFFF8, 0⟩ } ∧
    ({ State.reset with sink := ⟨0, 0, 0xFFFFFFF8, 0⟩ } : State).sink.bitpos.toNat + (List.replicate 7 true).length
      < 2 ^ 32 := ⟨fun k _ => by simp, by decide⟩

theorem witness_PutBitsCommand :
    (1 ≤ (1 : BitVec 6).toNat ∧ (32 : BitVec 6).toNat ≤ 32) ∧
    (opField 0x74040021 = 0x1D ∧ 32 < ((0x74040021 : Word).extractLsb' 0 6).toNat) ∧
    (opField 0x74040000 = 0x1D ∧ ((0x74040000 : Word).extractLsb' 0 6).toNat = 0) ∧ sinkAccepts small 32 ∧
    (({ small with sink := ⟨0, 4, 1, 0⟩ } : State).sink.limit.toNat <
      streamBytes (({ small with sink := ⟨0, 4, 1, 0⟩ } : State).sink.bitpos.toNat + 32)) ∧
    (2 ^ 32 ≤ ({ small with sink := ⟨0, 0xFFFFFFFF, 0xFFFFFFFF, 0⟩ } : State).sink.bitpos.toNat + 1) ∧
    (({ small with memSize := 3, sink := ⟨0, 4, 0, 0⟩ } : State).memSize <
      0 + streamBytes (({ small with memSize := 3, sink := ⟨0, 4, 0, 0⟩ } : State).sink.bitpos.toNat + 32)) :=
  ⟨by decide, by decide, by decide, .inr (by decide), by decide, by decide, by decide⟩

theorem witness_AlignCommand :
    sinkAccepts { small with sink := ⟨0x8000, 4, 27, 0xA0⟩ } ((8 - 27 % 8) % 8) ∧
    sinkAccepts State.reset ((8 - State.reset.sink.bitpos.toNat % 8) % 8) ∧ sinkOk State.reset ∧
    List.replicate ((8 - 25 % 8) % 8) false ≠ [] := ⟨.inr (by decide), .inl rfl, sinkOk_reset, by decide⟩

theorem witness_FlushCommand :
    State.reset.sink.bitpos.toNat % 8 = 0 ∧
    (({ small with sink := ⟨0x8000, 4, 27, 0xA0⟩ } : State).sink.bitpos.toNat % 8 ≠ 0 ∧
      27 / 8 + 1 ≤ (4 : Word).toNat ∧ (0x8000 : Word).toNat + 27 / 8 < small.memSize) ∧
    ((3 : Word).toNat < 27 / 8 + 1) ∧
    (({ small with memSize := 0x8003 } : State).memSize ≤ (0x8000 : Word).toNat + 27 / 8) := by decide

theorem witness_EncodeUnit :
    ({ small with frame := ⟨.encoding, true, .intra, 0, 0⟩ } : State).frame.uphase = true ∧
    sinkAccepts { small with frame := ⟨.encoding, true, .intra, 0, 0⟩ }
      (recordBits { small with frame := ⟨.encoding, true, .intra, 0, 0⟩ }).length ∧
    small.frame.uphase = false ∧
    recordBits { small with frame := ⟨.encoding, true, .intra, 0, 0⟩ } ≠ [] :=
  ⟨rfl, .inr (by decide +kernel), rfl, by decide +kernel⟩

theorem witness_PairCodes : (-4 : Int) ≠ 0 ∧
    (∃ r ∈ pairTable, r.run = 0 ∧ r.magnitude = (-4 : Int).natAbs) ∧
    (∀ r ∈ pairTable, ¬(r.run = 0 ∧ r.magnitude = (5 : Int).natAbs)) ∧
    (∀ p ∈ [(0, (-255 : Int)), (62, 255)], p.2 ≠ 0) := by decide

theorem witness_BlockDecodes : (255 :: -255 :: List.replicate 62 (0 : Int)).length = 64 ∧
    ∀ v ∈ (255 :: -255 :: List.replicate 62 (0 : Int)), v.natAbs ≤ 255 := by decide

/-- An open frame with a unit waiting for `ECMB`, its vectors at the radius. -/
def waiting : State :=
  { small with
    frame := ⟨.encoding, true, .bidirectional, 0, 0⟩
    cfg := { small.cfg with sradius := 1023 }
    mb := ⟨.interpolated, pack 1023 (-1023), pack (-1023) 1023, pack (-1023) 1023, pack 1023 (-1023)⟩ }

theorem levelsOk_waiting : levelsOk waiting := by unfold levelsOk; decide +kernel

theorem vectorsOk_waiting : vectorsOk waiting := by unfold vectorsOk coding withinRadius; decide +kernel

theorem witness_RecordBound : levelsOk waiting ∧ vectorsOk waiting ∧ coding waiting ∧ waiting.frame.uphase = true :=
  ⟨levelsOk_waiting, vectorsOk_waiting, .inr rfl, rfl⟩

/-! #### Frame control -/

theorem legalDimension_small : legalDimension (lumaW small) ∧ legalDimension (lumaH small) := by
  unfold legalDimension; decide

theorem witness_BeginFrame :
    (opField 0x80000003 = 0x20 ∧ ((0x80000003 : Word).extractLsb' 0 2).toNat = 3) ∧
    State.reset.frame.fs = .awaiting ∧
    (legalDimension (lumaW small) ∧ legalDimension (lumaH small) ∧ small.cfg.sradius ≠ 0 ∧ small.cfg.qinit ≠ 0 ∧
      (1 ≤ small.cfg.refWin.toNat ∧ small.cfg.refWin.toNat ≤ 4) ∧ (∀ p : Fin 64, small.cfg.qm[p] ≠ 0) ∧
      (small.cfg.refs[small.cfg.fwdSel]).valid = true ∧ (small.cfg.refs[small.cfg.bwdSel]).valid = true) ∧
    sinkAccepts small 24 ∧ small.frame.fs ≠ .awaiting ∧ ¬legalDimension (lumaW State.reset) ∧
    ¬((State.reset.cfg.refs[State.reset.cfg.bwdSel]).valid = true) :=
  ⟨by decide, rfl, ⟨legalDimension_small.1, legalDimension_small.2, by decide, by decide, by decide, by decide +kernel, rfl, rfl⟩,
    .inr (by decide), by decide, (by unfold legalDimension; decide), by decide⟩

/-- The small frame with its only unit emitted. -/
def emittedAll : State := { small with frame := ⟨.encoding, false, .intra, 0, 1⟩ }

theorem witness_EndFrame :
    (emittedAll.frame.fs = .encoding ∧ emittedAll.frame.uphase = false) ∧
    emittedAll.frame.mbcount.toNat = unitsWide emittedAll * unitsHigh emittedAll ∧ sinkAccepts emittedAll 8 ∧
    ¬(small.frame.fs = .encoding ∧ small.frame.uphase = false) ∧
    ¬(({ emittedAll with frame := ⟨.encoding, false, .intra, 0, 0⟩ } : State).frame.mbcount.toNat =
      unitsWide emittedAll * unitsHigh emittedAll) := ⟨by decide, by decide, .inr (by decide), by decide, by decide⟩

theorem witness_NextFrame :
    ({ small with frame := ⟨.complete, false, .intra, 0xFFFF, 1⟩ } : State).frame.fs = .complete ∧
    small.frame.fs ≠ .complete := by decide

/-! #### The host and the invariants -/

theorem witness_HostRegisterAccess :
    (4294967295 < State.reset.memSize ∧ State.reset.memSize ≤ 4294967296 ∧ (3 : Nat) ≠ 4) ∧
    csrOfNumber 0x00A = none ∧ (csrOfNumber 0x000 = some .id ∧ csrClass .id = .ro) ∧
    (csrOfNumber 0x008 = some .cp ∧ csrClass .cp = .hi) ∧ (csrOfNumber 0x013 = some .findex ∧ csrClass .findex = .rw) ∧
    (csrOfNumber 0x05A = some .bitpos ∧ csrClass .bitpos = .rwf) ∧ running.run.busy = true ∧
    small.run.busy = false ∧ small.frame.fs ≠ .awaiting ∧ State.reset.frame.fs = .awaiting := by decide

theorem witness_ControlWrite :
    (State.reset.run.busy = false ∧ State.reset.run.fault = false ∧ State.reset.frame.fs = .awaiting) ∧
    running.run.busy = true ∧ small.frame.fs ≠ .awaiting ∧ (faulted State.reset 1 0).run.fault = true ∧
    (0x7FFFFFFF : Word).getLsbD 31 = false := by decide

theorem witness_Reset : (0x80000000 : Word).getLsbD 31 = true := by decide

theorem witness_MemoryKept : memoryOk running ∧ ∃ t, step running = .next t := by
  refine ⟨⟨by decide, by decide⟩, ⟨_, rfl⟩⟩

theorem witness_RunSinkAndLevelsKept :
    (∃ t, step running = .next t) ∧ runOk running ∧ sinkOk running ∧ levelsOk running := by
  refine ⟨⟨_, rfl⟩, ?_, fun k _ => ?_, ?_⟩
  · unfold runOk; decide
  · simp [running, State.withFetchWord, State.reset]
  · unfold levelsOk; decide +kernel

/-- An open frame, mid-unit, with the engine about to run `NOP`. -/
def coded : State := (waiting).withFetchWord 32 0x0C000000

theorem witness_OpenFrameKept : frameOk coded ∧ ∃ t, step coded = .next t := by
  refine ⟨⟨?_, ?_, ?_⟩, ?_⟩
  · unfold configOk legalDimension; decide +kernel
  · unfold unitsOk coding; decide +kernel
  · unfold vectorsOk coding withinRadius; decide +kernel
  · exact ⟨_, rfl⟩

end Sys2Proof.Tests
end

/-! SUPPORT. The turns of the two agents: whose step it is and what the engine's turn runs (rules R13, R140). -/

namespace Sys2Proof.Machine

/-! ### The engine's turn -/

/-- Taking a turn of the engine off the script touches no field but the host agent. -/
theorem engineTurn_eq {s t : State} (h : engineTurn s t) : t = { s with host := t.host } := by
  rcases h with ⟨-, rfl⟩ | ⟨turns, -, rfl⟩ <;> rfl

/-- A turn of the running engine is one engine step of the state with the turn taken off. -/
theorem step_of_engineTurn {s t : State} (h : engineTurn s t) (hbusy : s.run.busy = true) :
    step s = engineStep t := by
  rcases h with ⟨hscript, rfl⟩ | ⟨turns, hscript, rfl⟩
  · simp [step, hscript, hbusy]
  · simp [step, hscript, hbusy, State.popTurn]

/-- A turn of the host is its access, on the state with the turn taken off. -/
theorem step_of_hostTurn {s : State} {a : HostAccess} {turns : List Turn} (h : s.host.script = .host a :: turns) :
    step s = hostStep a { s with host := { s.host with script := turns } } := by
  simp [step, h, State.popTurn]

/-- With no stop pending, an engine step executes the command that the fetch answers. -/
theorem engineStep_of_fetch_ok {s : State} {i : Instr} (hstop : s.run.stopReq = false) (h : fetch s = .ok i) :
    engineStep s = exec i s := by
  simp [engineStep, hstop, h]

/-- The fetch answers the command that the four bytes at an aligned `CP` in memory decode to. -/
theorem fetch_of_decode {s : State} {i : Instr} {rest : List Byte} (halign : s.cp.toNat % 4 = 0)
    (hmem : s.cp.toNat + 4 ≤ s.memSize) (h : decode (fetchBytes s) = .ok (i, rest)) : fetch s = .ok i := by
  simp [fetch, halign, hmem, h, bind, Except.bind, pure, Except.pure]

/-- Settles O5: the engine's turn fetches and executes, the host's turn is its access. -/
theorem stepRunsDecoded : Obligations.StepRunsDecoded := by
  unfold Obligations.StepRunsDecoded
  refine ⟨fun s t i rest hturn hbusy hstop halign hmem hdec => ?_, fun s a turns h => step_of_hostTurn h⟩
  rw [step_of_engineTurn hturn hbusy]
  have ht := engineTurn_eq hturn
  apply engineStep_of_fetch_ok
  · rw [ht]; exact hstop
  · apply fetch_of_decode (rest := rest) <;> rw [ht]
    · exact halign
    · exact hmem
    · exact hdec

end Sys2Proof.Machine

/-! SUPPORT. Registers read after a store, and the host's accesses (rules R13, R25, R53, R80, R321). -/

namespace Sys2Proof.Machine

/-! ### Implemented bits (rule R25) -/

/-- The low `k` bits of a word, zero-extended, are the word under the mask of its low `k` bits. -/
theorem setWidth_setWidth_low (v : Word) (k : Nat) :
    (v.setWidth k).setWidth 32 = v &&& BitVec.ofNat 32 (2 ^ k - 1) := by
  apply BitVec.eq_of_getLsbD_eq
  intro i hi
  simp only [BitVec.getLsbD_setWidth, BitVec.getLsbD_and, BitVec.getLsbD_ofNat, Nat.testBit_two_pow_sub_one, hi,
    decide_true, Bool.true_and]
  rw [Bool.and_comm]

/-- The flags a word sets read back as its five low bits (rule R23). -/
theorem flagsWord_flagsOfWord (v : Word) : flagsWord (flagsOfWord v) = v &&& 0x0000001F := by
  unfold flagsWord flagsOfWord
  apply BitVec.eq_of_getLsbD_eq
  intro i hi
  simp only [BitVec.getLsbD_append, BitVec.getLsbD_and]
  interval_cases i <;> simp

/-- A slot selector reads back as the two low bits of the word stored (rule R41). -/
theorem ofNat_finOfNat_four (v : Word) : BitVec.ofNat 32 (Fin.ofNat 4 v.toNat).val = v &&& 0x00000003 := by
  apply BitVec.eq_of_toNat_eq
  have hmask : v.toNat &&& 3 = v.toNat % 4 := Nat.and_two_pow_sub_one_eq_mod v.toNat 2
  rw [BitVec.toNat_and, show (0x00000003 : Word).toNat = 3 from rfl, hmask, Fin.val_ofNat, BitVec.toNat_ofNat]
  omega

/-- The valid bit and the index of a slot read back as bits 31 and 15:0 of the word stored (rule R43). -/
theorem slotControl_eq_and (v : Word) :
    BitVec.ofBool (v.getLsbD 31) ++ 0#15 ++ v.setWidth 16 = v &&& 0x8000FFFF := by
  apply BitVec.eq_of_getLsbD_eq
  intro i hi
  simp only [BitVec.getLsbD_append, BitVec.getLsbD_and]
  interval_cases i <;> simp

/-- The transform selector reads back as bit 0 of the word stored (rule R46). -/
theorem ofBool_getLsbD_zero (v : Word) : (BitVec.ofBool (v.getLsbD 0)).setWidth 32 = v &&& 0x00000001 := by
  ext i hi
  interval_cases i <;> simp

/-! ### Reading a register after a store -/

/-- A changed reference slot reads as it was put there, the others as before. -/
theorem setSlot_refs (s : State) (i j : Fin 4) (slot : RefSlot) :
    (setSlot s i slot).cfg.refs[j] = if j = i then slot else s.cfg.refs[j] := by
  simp only [setSlot, Fin.getElem_fin, Vector.getElem_set, Fin.ext_iff, eq_comm]

theorem setSlot_refs_same (s : State) (i : Fin 4) (slot : RefSlot) : (setSlot s i slot).cfg.refs[i] = slot := by
  rw [setSlot_refs, if_pos rfl]

/-- A register that a store accepts reads as the implemented bits of the value stored (rule R25). -/
theorem csrRead_csrStore_same (s : State) (c : Csr) (v : Word) (hro : csrClass c ≠ .ro) (hhc : csrClass c ≠ .hc) :
    csrRead (csrStore s c v) c = v &&& implementedBits c := by
  cases c
  case flags => exact flagsWord_flagsOfWord v
  case fwdSel | bwdSel => exact ofNat_finOfNat_four v
  case frmw | frmh => exact setWidth_setWidth_low v 12
  case findex => exact setWidth_setWidth_low v 16
  case sradius => exact setWidth_setWidth_low v 10
  case refWin => exact setWidth_setWidth_low v 3
  case qinit | qscale => exact setWidth_setWidth_low v 5
  case tqcfg => exact ofBool_getLsbD_zero v
  case refCtl i =>
    simp only [csrRead, csrStore, setSlot_refs_same]
    exact slotControl_eq_and v
  case refY i | refCb i | refCr i =>
    simp only [csrRead, csrStore, setSlot_refs_same]
    exact BitVec.and_allOnes.symm
  case qm p =>
    simp only [csrRead, csrStore, Fin.getElem_fin, Vector.getElem_set_self]
    exact setWidth_setWidth_low v 8
  case cp | curY | curCb | curCr | recY | recCb | recCr | intraBias | mvf | mvb | exhcnt | esccnt | dcpy | dcpcb | dcpcr
    | outbase | outlimit | bitpos => exact BitVec.and_allOnes.symm
  case ctrl | irqen | irqst => exact absurd rfl hhc
  all_goals exact absurd rfl hro

/-- A changed slot shows only in those of its four registers whose part of the slot changed. -/
theorem csrRead_setSlot {s : State} {i : Fin 4} {slot : RefSlot} {c : Csr}
    (hctl : c = .refCtl i → slot.valid = s.cfg.refs[i].valid ∧ slot.index = s.cfg.refs[i].index)
    (hy : c = .refY i → slot.y = s.cfg.refs[i].y) (hcb : c = .refCb i → slot.cb = s.cfg.refs[i].cb)
    (hcr : c = .refCr i → slot.cr = s.cfg.refs[i].cr) : csrRead (setSlot s i slot) c = csrRead s c := by
  cases c
  case refCtl j | refY j | refCb j | refCr j =>
    simp only [csrRead, setSlot_refs]
    by_cases hj : j = i
    · subst hj; simp_all
    · simp [hj]
  all_goals rfl

/-- A store to a register shows in no other one, except that a store to `BITPOS` clears `ACC` (rules R25, R53): no two
registers hold the same piece of state. -/
theorem csrRead_csrStore_other (s : State) {c c' : Csr} (v : Word) (hne : c' ≠ c)
    (hacc : ¬(c = .bitpos ∧ c' = .acc)) : csrRead (csrStore s c v) c' = csrRead s c' := by
  cases c
  case refCtl i => exact csrRead_setSlot (fun h => absurd h hne) (fun _ => rfl) (fun _ => rfl) fun _ => rfl
  case refY i => exact csrRead_setSlot (fun _ => ⟨rfl, rfl⟩) (fun h => absurd h hne) (fun _ => rfl) fun _ => rfl
  case refCb i => exact csrRead_setSlot (fun _ => ⟨rfl, rfl⟩) (fun _ => rfl) (fun h => absurd h hne) fun _ => rfl
  case refCr i => exact csrRead_setSlot (fun _ => ⟨rfl, rfl⟩) (fun _ => rfl) (fun _ => rfl) fun h => absurd h hne
  case qm p =>
    cases c'
    case qm p' =>
      have hval : p.val ≠ p'.val := fun h => hne (congrArg Csr.qm (Fin.ext h.symm))
      simp [csrRead, csrStore, hval]
    all_goals rfl
  case bitpos =>
    cases c'
    case acc => exact absurd ⟨rfl, rfl⟩ hacc
    case bitpos => exact absurd rfl hne
    all_goals rfl
  all_goals cases c' <;> first | rfl | exact absurd rfl hne

/-! ### Host accesses -/

/-- A host write that the register's class and the run state let through stores the value (rule R25). -/
theorem hostWriteReg_accepted {s : State} {n : Nat} {c : Csr} (v : Word) (hn : csrOfNumber n = some c)
    (hbusy : s.run.busy = false)
    (hclass : csrClass c = .rw ∨ csrClass c = .hi ∨ (csrClass c = .rwf ∧ s.frame.fs = .awaiting)) :
    hostWriteReg s n v = csrStore s c v := by
  rcases hclass with h | h | ⟨h, hfs⟩
  · simp [hostWriteReg, hn, h, hbusy]
  · simp [hostWriteReg, hn, h, hbusy]
  · simp [hostWriteReg, hn, h, hbusy, hfs]

/-- A host write to a missing number is refused (rules R25, R321). -/
theorem hostWriteReg_missing {s : State} {n : Nat} (v : Word) (hn : csrOfNumber n = none) :
    hostWriteReg s n v = s.hostError := by
  simp [hostWriteReg, hn]

/-- A host write to a read-only register is refused (rule R25). -/
theorem hostWriteReg_readOnly {s : State} {n : Nat} {c : Csr} (v : Word) (hn : csrOfNumber n = some c)
    (hclass : csrClass c = .ro) : hostWriteReg s n v = s.hostError := by
  simp [hostWriteReg, hn, hclass]

/-- A host write to an engine register is refused while the engine runs (rule R25). -/
theorem hostWriteReg_busy {s : State} {n : Nat} {c : Csr} (v : Word) (hn : csrOfNumber n = some c)
    (hclass : csrClass c = .rw ∨ csrClass c = .rwf ∨ csrClass c = .hi) (hbusy : s.run.busy = true) :
    hostWriteReg s n v = s.hostError := by
  rcases hclass with h | h | h <;> simp [hostWriteReg, hn, h, hbusy]

/-- A host write to a frame-locked register is refused while a frame is open (rule R25). -/
theorem hostWriteReg_frameLocked {s : State} {n : Nat} {c : Csr} (v : Word) (hn : csrOfNumber n = some c)
    (hclass : csrClass c = .rwf) (hfs : s.frame.fs ≠ .awaiting) : hostWriteReg s n v = s.hostError := by
  simp [hostWriteReg, hn, hclass, hfs]

/-- The host's accesses of one byte of shared memory: a read, a write, an address that does not exist (rules R13, R80,
R91). -/
theorem hostStep_byte (address : Nat) (v : Byte) (s : State) :
    (address < s.memSize → hostStep (.readByte address) s = .next { s with
      host := { s.host with lastRead := BitVec.ofNat 32 (s.mem.read address).toNat } }) ∧
    (address < s.memSize → ∃ t, hostStep (.writeByte address v) s = .next t ∧ t.mem.read address = v ∧
      (∀ a, a ≠ address → t.mem.read a = s.mem.read a) ∧ t = { s with mem := t.mem }) ∧
    (s.memSize ≤ address → hostStep (.readByte address) s = .fault (.hostAddressAbsent address) ∧
      hostStep (.writeByte address v) s = .fault (.hostAddressAbsent address)) := by
  refine ⟨fun h => ?_, fun h => ⟨{ s with mem := s.mem.write address v }, ?_, ?_, fun a ha => ?_, rfl⟩, fun h => ?_⟩
  · simp [hostStep, h, State.hostSees, BitVec.ofNat_toNat]
  · simp [hostStep, h]
  · exact Memory.read_write_same s.mem address v
  · exact Memory.read_write_other s.mem v ha
  · simp [hostStep, Nat.not_lt.mpr h]

/-- Settles O52: refusals by class and run state, accepted stores register by register, bytes of memory. -/
theorem hostRegisterAccess : Obligations.HostRegisterAccess := by
  unfold Obligations.HostRegisterAccess
  refine ⟨hostStep_byte, fun n v s => ?_⟩
  have hwrite : ∀ t, hostWriteReg s n v = t → hostStep (.writeReg n v) s = .next t := by rintro t rfl; rfl
  refine ⟨?_, fun hn => hwrite _ (hostWriteReg_missing v hn), fun c hn => ⟨fun hclass => ?_, fun hclass hbusy => ?_,
    fun hclass hfs => ?_, fun hbusy hclass => ⟨csrStore s c v, ?_, ?_⟩⟩⟩
  · show Host.Outcome.next (s.hostSees (hostReadReg s n)) = _
    unfold hostReadReg State.hostSees
    cases csrOfNumber n <;> rfl
  · exact hwrite _ (hostWriteReg_readOnly v hn hclass)
  · exact hwrite _ (hostWriteReg_busy v hn hclass hbusy)
  · exact hwrite _ (hostWriteReg_frameLocked v hn hclass hfs)
  · exact hwrite _ (hostWriteReg_accepted v hn hbusy hclass)
  · obtain ⟨hregs, hrun, -, -, hcur, hqc, -, hmem, hsize, hhost⟩ := csrStore_frame s c v
    have hro : csrClass c ≠ .ro := by rintro h; simp [h] at hclass
    have hhc : csrClass c ≠ .hc := by rintro h; simp [h] at hclass
    refine ⟨csrRead_csrStore_same s c v hro hhc, fun c' hne hacc => csrRead_csrStore_other s v hne hacc, ?_, hregs,
      fun a => ?_, hrun, hcur, hqc, hsize, hhost⟩
    · rintro rfl; rfl
    · rw [hmem]

end Sys2Proof.Machine

/-! SUPPORT. Rounded division (rule R9). -/

namespace Sys2Proof.Machine

/-- The magnitude of `rdiv` lies within half a divisor of the exact quotient. -/
theorem roundedQuotient_bounds (n : Nat) {b : Nat} (hb : 0 < b) :
    2 * ((2 * n + b) / (2 * b) * b) ≤ 2 * n + b ∧ 2 * n < 2 * ((2 * n + b) / (2 * b) * b) + b := by
  have hdiv := Nat.div_add_mod (2 * n + b) (2 * b)
  have hmod := Nat.mod_lt (2 * n + b) (show 0 < 2 * b by omega)
  have hassoc : 2 * b * ((2 * n + b) / (2 * b)) = 2 * ((2 * n + b) / (2 * b) * b) := by
    rw [Nat.mul_assoc, Nat.mul_comm b]
  omega

/-- `rdiv` is odd in its first argument. -/
theorem rdiv_neg (a : Int) (b : Nat) : rdiv (-a) b = -rdiv a b := by
  simp [rdiv, Int.sign_neg]

@[simp] theorem rdiv_zero (b : Nat) : rdiv 0 b = 0 := by simp [rdiv]

/-- `rdiv` rounds to 0 exactly below half the divisor. -/
theorem rdiv_eq_zero_iff (a : Int) {b : Nat} (hb : 0 < b) : rdiv a b = 0 ↔ 2 * a.natAbs < b := by
  have hquot : (2 * a.natAbs + b) / (2 * b) = 0 ↔ 2 * a.natAbs < b := by
    rw [Nat.div_eq_zero_iff]; omega
  unfold rdiv
  rw [mul_eq_zero, Int.sign_eq_zero_iff_zero, Int.natCast_eq_zero, hquot]
  constructor
  · rintro (rfl | h)
    · simpa using hb
    · exact h
  · exact Or.inr

/-- `rdiv` of a multiple of the divisor is exact. -/
theorem rdiv_mul_self (k : Int) {b : Nat} (hb : 0 < b) : rdiv (k * b) b = k := by
  have hquot : (2 * (k.natAbs * b) + b) / (2 * b) = k.natAbs := by
    apply Nat.div_eq_of_lt_le <;> ring_nf <;> omega
  have hsign : (k * b).sign = k.sign := by
    rw [Int.sign_mul, Int.sign_natCast_of_ne_zero hb.ne', mul_one]
  rw [rdiv, hsign, Int.natAbs_mul, Int.natAbs_natCast, hquot, Int.sign_mul_natAbs]

/-- `rdiv` times the divisor is within half a divisor of the dividend: the error is the magnitude's error, signed. -/
theorem rdiv_error (a : Int) {b : Nat} (hb : 0 < b) : 2 * (rdiv a b * b - a).natAbs ≤ b := by
  obtain ⟨hlow, hhigh⟩ := roundedQuotient_bounds a.natAbs hb
  have herror : rdiv a b * b - a = a.sign * (((2 * a.natAbs + b) / (2 * b) * b : Nat) - (a.natAbs : Int)) := by
    rw [mul_sub, Int.sign_mul_natAbs, rdiv, mul_assoc, Nat.cast_mul]
  have hsign : a.sign.natAbs ≤ 1 := by
    rw [Int.natAbs_sign]; split <;> omega
  rw [herror, Int.natAbs_mul]
  have hscale := Nat.mul_le_mul_right
    ((((2 * a.natAbs + b) / (2 * b) * b : Nat) : Int) - (a.natAbs : Int)).natAbs hsign
  omega

/-- Settles O30, from the bounds of the rounded magnitude and the sign put back. -/
theorem roundedDivision : Obligations.RoundedDivision := by
  unfold Obligations.RoundedDivision
  intro a b hb
  refine ⟨?_, rdiv_neg a b, rdiv_eq_zero_iff a hb, fun k => rdiv_mul_self k hb, rdiv_error a hb⟩
  simp [rdiv]

end Sys2Proof.Machine


/-! SUPPORT. Blocks in raster order and the two transforms as double sums (rules R11, R12, R212, R213, R216). -/

namespace Sys2Proof.Machine

/-! ### Lists by index -/

/-- A walk over `a * b` numbers is a walk over `a` groups of `b`. -/
theorem map_range_mul {α : Type} (a b : Nat) (f : Nat → α) :
    (List.range (a * b)).map f = (List.range a).flatMap fun i => (List.range b).map fun j => f (b * i + j) := by
  induction a with
  | zero => simp
  | succ a ih =>
    rw [Nat.succ_mul, List.range_add, List.map_append, ih, List.range_succ, List.flatMap_append]
    simp [Function.comp_def, Nat.mul_comm]

/-- A list of known length is its entries by index. -/
theorem eq_map_range_getD {α : Type} {l : List α} {n : Nat} (d : α) (h : l.length = n) :
    l = (List.range n).map fun k => l.getD k d := by
  subst h
  apply List.ext_getElem <;> simp +contextual

/-- A stretch of a list by index. -/
theorem take_drop_eq_map_range {α : Type} {l : List α} {a n : Nat} (d : α) (h : a + n ≤ l.length) :
    (l.drop a).take n = (List.range n).map fun j => l.getD (a + j) d := by
  apply List.ext_getElem
  · simp; omega
  · intro j hj _
    have hj' : a + j < l.length := by simp at hj; omega
    simp [hj']

/-- An entry of a list given by index. -/
theorem getD_map_range {α : Type} (n k : Nat) (f : Nat → α) (d : α) (h : k < n) :
    ((List.range n).map f).getD k d = f k := by
  simp [h]

/-- An entry of two lists combined, within both. -/
theorem getD_zipWith {α β γ : Type} (g : α → β → γ) {l : List α} {l' : List β} {k : Nat} (a : α) (b : β) (c : γ)
    (h : k < l.length) (h' : k < l'.length) : (List.zipWith g l l').getD k c = g (l.getD k a) (l'.getD k b) := by
  simp [h, h']

/-- A function of each two neighbours of a list given by index. -/
theorem zipWith_tail_map_range {α β : Type} (n : Nat) (f : α → α → β) (g : Nat → α) :
    List.zipWith f ((List.range (n + 1)).map g) ((List.range (n + 1)).map g).tail =
      (List.range n).map fun i => f (g i) (g (i + 1)) := by
  apply List.ext_getElem <;> simp

/-! ### Blocks in raster order (rule R11) -/

/-- A block is its rows one after another. -/
theorem rasterBlock_eq_flatMap {α : Type} (n : Nat) (f : Nat → Nat → α) :
    rasterBlock n f = (List.range n).flatMap fun i => (List.range n).map (f i) := by
  rw [rasterBlock, map_range_mul]
  apply List.flatMap_congr
  intro i _
  apply List.map_congr_left
  intro j hj
  have hj : j < n := List.mem_range.mp hj
  rw [Nat.mul_add_div (by omega), Nat.div_eq_of_lt hj, Nat.mul_add_mod, Nat.mod_eq_of_lt hj, Nat.add_zero]

@[simp] theorem rasterBlock_length {α : Type} (n : Nat) (f : Nat → Nat → α) : (rasterBlock n f).length = n * n := by
  simp [rasterBlock]

/-- A function of each sample of a block. -/
theorem map_rasterBlock {α β : Type} (n : Nat) (f : Nat → Nat → α) (g : α → β) :
    (rasterBlock n f).map g = rasterBlock n fun i j => g (f i j) := by
  simp [rasterBlock, Function.comp_def]

/-- Two blocks combined sample by sample. -/
theorem zipWith_rasterBlock {α β γ : Type} (n : Nat) (g : α → β → γ) (f : Nat → Nat → α) (f' : Nat → Nat → β) :
    List.zipWith g (rasterBlock n f) (rasterBlock n f') = rasterBlock n fun i j => g (f i j) (f' i j) := by
  simp [rasterBlock, List.zipWith_map, List.zipWith_self]

/-- A list of `n * n` samples is a block. -/
theorem eq_rasterBlock {α : Type} {l : List α} {n : Nat} (d : α) (h : l.length = n * n) :
    l = rasterBlock n fun i j => l.getD (n * i + j) d := by
  rw [rasterBlock_eq_flatMap, ← map_range_mul n n fun k => l.getD k d]
  exact eq_map_range_getD d h

/-- A sample of a block, by row and column. -/
theorem getD_rasterBlock {α : Type} {n i j : Nat} (f : Nat → Nat → α) (d : α) (hi : i < n) (hj : j < n) :
    (rasterBlock n f).getD (n * i + j) d = f i j := by
  have hk : n * i + j < n * n := by
    calc n * i + j < n * i + n := by omega
      _ = n * (i + 1) := by ring
      _ ≤ n * n := Nat.mul_le_mul_left n hi
  rw [rasterBlock, getD_map_range _ _ _ _ hk, Nat.mul_add_div (by omega), Nat.div_eq_of_lt hj, Nat.mul_add_mod,
    Nat.mod_eq_of_lt hj, Nat.add_zero]

/-! ### The double sums (rules R212, R216) -/

/-- The 8×8 matrix of a function of row and column, as rows. -/
def matrixRows (M : Nat → Nat → Int) : List (List Int) :=
  (List.range 8).map fun u => (List.range 8).map (M u)

/-- The inner product of two rows given by index. -/
theorem dot_map_range (n : Nat) (f g : Nat → Int) :
    dot ((List.range n).map f) ((List.range n).map g) = ∑ j ∈ Finset.range n, f j * g j := by
  rw [dot, List.zipWith_map, List.zipWith_self]
  rfl

/-- The rows of a block. -/
theorem blockRows_rasterBlock (X : Nat → Nat → Int) :
    blockRows (rasterBlock 8 X) = (List.range 8).map fun i => (List.range 8).map (X i) := by
  unfold blockRows
  apply List.map_congr_left
  intro i hi
  have hi : i < 8 := List.mem_range.mp hi
  rw [take_drop_eq_map_range 0 (by simp; omega)]
  exact List.map_congr_left fun j hj => getD_rasterBlock X 0 hi (List.mem_range.mp hj)

/-- The model's double sums of a matrix and a block are those of the rules. -/
theorem doubleSums_matrixRows (M X : Nat → Nat → Int) :
    doubleSums (matrixRows M) (rasterBlock 8 X) =
      rasterBlock 8 fun u v => ∑ i ∈ Finset.range 8, ∑ j ∈ Finset.range 8, M u i * X i j * M v j := by
  simp only [doubleSums, matrixRows, blockRows_rasterBlock, List.map_map, List.flatMap_map, Function.comp_def,
    dot_map_range, Finset.mul_sum, mul_assoc]
  rw [rasterBlock_eq_flatMap]

/-- The table of a transform: the DCT's or the Walsh-Hadamard transform's (rules R46, R212, R216). -/
def transformMatrix (xform : Bool) : List (List Int) := if xform then whtMatrix else dctMatrix

/-- What a transform divides its sums by (rules R212, R216). -/
def transformScale (xform : Bool) : Nat := if xform then 8 else 2 ^ 24

theorem transformMatrix_eq_matrixRows (xform : Bool) :
    transformMatrix xform = matrixRows (entry (transformMatrix xform)) := by
  cases xform <;> decide

theorem transposed_transformMatrix (xform : Bool) :
    transposed (transformMatrix xform) = matrixRows fun i u => entry (transformMatrix xform) u i := by
  cases xform <;> decide

theorem forwardTransform_eq (xform : Bool) (x : List Int) :
    forwardTransform xform x = (doubleSums (transformMatrix xform) x).map fun t => rdiv t (transformScale xform) := by
  cases xform <;> rfl

theorem inverseTransform_eq (xform : Bool) (r : List Int) :
    inverseTransform xform r =
      (doubleSums (transposed (transformMatrix xform)) r).map fun t => rdiv t (transformScale xform) := by
  cases xform <;> rfl

/-- `Fwd` of a block is the double sums over the table, rounded once (rules R212, R216). -/
theorem forwardTransform_rasterBlock (xform : Bool) (X : Nat → Nat → Int) :
    forwardTransform xform (rasterBlock 8 X) = rasterBlock 8 fun u v =>
      rdiv (∑ i ∈ Finset.range 8, ∑ j ∈ Finset.range 8,
        entry (transformMatrix xform) u i * X i j * entry (transformMatrix xform) v j) (transformScale xform) := by
  rw [forwardTransform_eq, transformMatrix_eq_matrixRows, doubleSums_matrixRows, map_rasterBlock,
    ← transformMatrix_eq_matrixRows]

/-- `Inv` of a block is the double sums over the transposed table, rounded once (rules R212, R216). -/
theorem inverseTransform_rasterBlock (xform : Bool) (X : Nat → Nat → Int) :
    inverseTransform xform (rasterBlock 8 X) = rasterBlock 8 fun i j =>
      rdiv (∑ u ∈ Finset.range 8, ∑ v ∈ Finset.range 8,
        entry (transformMatrix xform) u i * X u v * entry (transformMatrix xform) v j) (transformScale xform) := by
  rw [inverseTransform_eq, transposed_transformMatrix, doubleSums_matrixRows, map_rasterBlock]

/-! ### The six blocks of a unit (rules R12, R213) -/

/-- A block of a 16×16 raster, sample by sample. -/
theorem subBlock_eq_rasterBlock {l : List Nat} {r0 c0 : Nat} (h : l.length = 256) (hr : r0 ≤ 8) (hc : c0 ≤ 8) :
    subBlock l r0 c0 = rasterBlock 8 fun i j => l.getD (16 * (r0 + i) + (c0 + j)) 0 := by
  rw [subBlock, rasterBlock_eq_flatMap]
  apply List.flatMap_congr
  intro i hi
  have hi : i < 8 := List.mem_range.mp hi
  rw [take_drop_eq_map_range 0 (by omega)]
  simp only [Nat.add_assoc]

/-- A sample of a buffer, as the statements read it. -/
theorem getD_map_toNat_toList {n : Nat} (v : Vector Byte n) (k : Nat) :
    (v.toList.map BitVec.toNat).getD k 0 = ((v[k]?).getD 0).toNat := by
  simp only [List.getD_eq_getElem?_getD, List.getElem?_map, Vector.getElem?_toList]
  cases v[k]? <;> rfl

/-- The coefficient blocks of a unit are the transforms of its six residual blocks in their order (rules R12, R213). -/
theorem unitCoefficients_eq (s : State) (pred : UnitSamples) (hy : pred.y.length = 256) (hcb : pred.cb.length = 64)
    (hcr : pred.cr.length = 64) :
    let luma := fun r0 c0 : Nat => rasterBlock 8 fun i j =>
      (((s.cur.y[16 * (r0 + i) + (c0 + j)]?).getD 0).toNat : Int) - (pred.y.getD (16 * (r0 + i) + (c0 + j)) 0 : Nat)
    let chroma := fun (v : Vector Byte 64) (p : List Nat) => rasterBlock 8 fun i j =>
      (((v[8 * i + j]?).getD 0).toNat : Int) - (p.getD (8 * i + j) 0 : Nat)
    unitCoefficients s pred =
      [(Component.y, luma 0 0), (.y, luma 0 8), (.y, luma 8 0), (.y, luma 8 8), (.cb, chroma s.cur.cb pred.cb),
        (.cr, chroma s.cur.cr pred.cr)].map fun b => (b.1, forwardTransform s.cfg.xform b.2) := by
  have hluma : ∀ r0 c0, r0 ≤ 8 → c0 ≤ 8 →
      List.zipWith (· - ·) ((subBlock (curLuma s) r0 c0).map Int.ofNat) ((subBlock pred.y r0 c0).map Int.ofNat) =
        rasterBlock 8 fun i j => (((s.cur.y[16 * (r0 + i) + (c0 + j)]?).getD 0).toNat : Int) -
          (pred.y.getD (16 * (r0 + i) + (c0 + j)) 0 : Nat) := by
    intro r0 c0 hr hc
    have hcur : (curLuma s).length = 256 := by simp [curLuma]
    rw [subBlock_eq_rasterBlock hcur hr hc, subBlock_eq_rasterBlock hy hr hc, map_rasterBlock, map_rasterBlock,
      zipWith_rasterBlock]
    simp only [curLuma, getD_map_toNat_toList, Int.ofNat_eq_natCast]
  have hchroma : ∀ (v : Vector Byte 64) (p : List Nat), p.length = 64 →
      List.zipWith (· - ·) ((v.toList.map BitVec.toNat).map Int.ofNat) (p.map Int.ofNat) =
        rasterBlock 8 fun i j => (((v[8 * i + j]?).getD 0).toNat : Int) - (p.getD (8 * i + j) 0 : Nat) := by
    intro v p hp
    rw [eq_rasterBlock (n := 8) (l := v.toList.map BitVec.toNat) 0 (by simp)]
    conv_lhs => rw [eq_rasterBlock (n := 8) (l := p) 0 hp]
    rw [map_rasterBlock, map_rasterBlock, zipWith_rasterBlock]
    simp only [getD_map_toNat_toList, Int.ofNat_eq_natCast]
  intro luma chroma
  simp only [unitCoefficients, residualBlocks, sixBlocks, currentSamples, List.map_cons, List.map_nil,
    List.zipWith_cons_cons, List.zipWith_nil_left, hluma, hchroma _ _ hcb, hchroma _ _ hcr, Nat.zero_le, Nat.le_refl]
  rfl

/-- Settles O31: both transforms as double sums over their tables, and the blocks `TQMB` feeds them. -/
theorem transformSums : Obligations.TransformSums := by
  unfold Obligations.TransformSums
  refine ⟨fun X => ⟨?_, ?_, ?_, ?_⟩, unitCoefficients_eq⟩
  · exact forwardTransform_rasterBlock false X
  · exact inverseTransform_rasterBlock false X
  · exact forwardTransform_rasterBlock true X
  · exact inverseTransform_rasterBlock true X

end Sys2Proof.Machine

/-! SUPPORT. Runs of stored bytes as lists of cells (rules R80, R231). -/

namespace Sys2Proof.Machine

/-! ### Cells written one after another -/

/-- Bytes written in the order of a list of cells. -/
def Memory.writeCells (m : Memory) (l : List Host.Cell) : Memory := l.foldl (fun acc c => acc.write c.1 c.2) m

@[simp] theorem Memory.writeCells_nil (m : Memory) : m.writeCells [] = m := rfl

@[simp] theorem Memory.writeCells_cons (m : Memory) (c : Host.Cell) (l : List Host.Cell) :
    m.writeCells (c :: l) = (m.write c.1 c.2).writeCells l := rfl

theorem Memory.writeCells_append (m : Memory) (l l' : List Host.Cell) :
    m.writeCells (l ++ l') = (m.writeCells l).writeCells l' := List.foldl_append

/-- Writing lists of cells in turn is writing all their cells in that order. -/
theorem Memory.foldl_writeCells {α : Type} (m : Memory) (l : List α) (f : α → List Host.Cell) :
    l.foldl (fun acc x => acc.writeCells (f x)) m = m.writeCells (l.flatMap f) := by
  induction l generalizing m with
  | nil => rfl
  | cons x l ih => rw [List.foldl_cons, ih, List.flatMap_cons, Memory.writeCells_append]

/-- A byte holds the last value written to it: the one of index `k`, where no later cell has its address. -/
theorem Memory.read_writeCells_last (m : Memory) (place : Nat → Nat) (value : Nat → Byte) {n k : Nat} (hk : k < n)
    (hlast : ∀ k', k < k' → k' < n → place k' ≠ place k) :
    (m.writeCells ((List.range n).map fun i => (place i, value i))).read (place k) = value k := by
  induction n with
  | zero => omega
  | succ n ih =>
    rw [List.range_succ, List.map_append, Memory.writeCells_append]
    simp only [List.map_cons, List.map_nil, Memory.writeCells_cons, Memory.writeCells_nil]
    rcases Nat.lt_succ_iff_lt_or_eq.mp hk with hlt | rfl
    · rw [Memory.read_write_other _ _ (hlast n hlt (Nat.lt_succ_self n)).symm]
      exact ih hlt fun k' h h' => hlast k' h (by omega)
    · exact Memory.read_write_same _ _ _

/-- A range of consecutive bytes as cells. -/
theorem Memory.writeRange_eq_writeCells (m : Memory) (a : Nat) (l : List Byte) :
    m.writeRange a l = m.writeCells ((List.range l.length).map fun j => (a + j, l.getD j 0)) := by
  induction l generalizing m a with
  | nil => rfl
  | cons b l ih =>
    rw [Memory.writeRange, ih, List.length_cons, List.range_succ_eq_map, List.map_cons, List.map_map,
      Memory.writeCells_cons]
    simp [Function.comp_def, Nat.add_assoc, Nat.add_comm 1]

/-! ### A unit of samples stored (rules R12, R213, R231) -/

/-- The samples of six 8×8 blocks, by their number in the unit: block by block, row by row. -/
theorem map_range_unit {α : Type} (f : Nat → Nat → Nat → α) :
    (List.range 384).map (fun m => f (m / 64) (m % 64 / 8) (m % 8)) =
      (List.range 6).flatMap fun k => (List.range 8).flatMap fun i => (List.range 8).map (f k i) := by
  rw [show 384 = 6 * 64 from rfl, map_range_mul]
  apply List.flatMap_congr
  intro k _
  rw [← rasterBlock_eq_flatMap, rasterBlock]
  apply List.map_congr_left
  intro r hr
  have hr : r < 64 := List.mem_range.mp hr
  rw [show (64 * k + r) / 64 = k by omega, show (64 * k + r) % 64 = r by omega, show (64 * k + r) % 8 = r % 8 by omega]

/-- A stored 8×8 block as cells, in raster order. -/
theorem storeBlock_eq_writeCells (m : Memory) (p : Plane) (x y : Nat) {block : List Byte} (h : block.length = 64) :
    storeBlock m p x y block = m.writeCells ((List.range 8).flatMap fun i => (List.range 8).map fun j =>
      (p.address x (y + i) + j, block.getD (8 * i + j) 0)) := by
  rw [← Memory.foldl_writeCells, storeBlock]
  refine List.foldl_ext _ _ _ fun acc i hi => ?_
  have hi : i < 8 := List.mem_range.mp hi
  rw [Memory.writeRange_eq_writeCells, take_drop_eq_map_range 0 (by omega), List.length_map, List.length_range]
  exact congrArg acc.writeCells
    (List.map_congr_left fun j hj => by rw [getD_map_range _ _ _ _ (List.mem_range.mp hj)])

/-- The address of row `i`, column `j` of block `k` of a unit at `(x, y)` (rules R12, R213, R231). -/
def unitPlace (p : PlaneSet) (x y k i j : Nat) : Nat :=
  let place := (blockPlaces p x y).getD k (p.y, x, y)
  place.1.address place.2.1 (place.2.2 + i) + j

/-- A stored unit as cells: its 384 samples in the order of the blocks and their rows. -/
theorem storeUnit_eq_writeCells (m : Memory) (p : PlaneSet) (x y : Nat) {blocks : List (List Byte)}
    (hlen : blocks.length = 6) (hblock : ∀ b ∈ blocks, b.length = 64) :
    storeUnit m p x y blocks = m.writeCells ((List.range 384).map fun n =>
      (unitPlace p x y (n / 64) (n % 64 / 8) (n % 8), (blocks.getD (n / 64) []).getD (n % 64) 0)) := by
  have hzip : (blockPlaces p x y).zip blocks =
      (List.range 6).map fun k => ((blockPlaces p x y).getD k (p.y, x, y), blocks.getD k []) := by
    rw [← List.zip_map', ← eq_map_range_getD (n := 6) (p.y, x, y) rfl, ← eq_map_range_getD [] hlen]
  have hcells : ((List.range 384).map fun n =>
      ((unitPlace p x y (n / 64) (n % 64 / 8) (n % 8), (blocks.getD (n / 64) []).getD (n % 64) 0) : Host.Cell)) =
      (List.range 6).flatMap fun k => (List.range 8).flatMap fun i => (List.range 8).map fun j =>
        (unitPlace p x y k i j, (blocks.getD k []).getD (8 * i + j) 0) := by
    rw [← map_range_unit fun k i j => (unitPlace p x y k i j, (blocks.getD k []).getD (8 * i + j) 0)]
    exact List.map_congr_left fun n _ => by rw [show 8 * (n % 64 / 8) + n % 8 = n % 64 by omega]
  rw [hcells, ← Memory.foldl_writeCells, storeUnit, hzip, List.foldl_map]
  refine List.foldl_ext _ _ _ fun acc k hk => ?_
  have hk : k < blocks.length := by rw [hlen]; exact List.mem_range.mp hk
  have hget : blocks.getD k [] ∈ blocks := by
    rw [List.getD_eq_getElem _ _ hk]; exact List.getElem_mem hk
  exact storeBlock_eq_writeCells acc _ _ _ (hblock _ hget)

/-- The statements' address of a sample is the model's (rules R213, R231). -/
theorem samplePlace_eq (s : State) {n : Nat} (hn : n < 384) :
    samplePlace s n = unitPlace (recPlanes s) (lo16s s.cur.pos).toNat (hi16s s.cur.pos).toNat (n / 64) (n % 64 / 8)
      (n % 8) := by
  have hk : n / 64 < 6 := by omega
  unfold samplePlace unitPlace
  generalize n / 64 = k at hk
  interval_cases k <;> simp [blockPlaces, recPlanes, planesAt, Plane.address, Nat.add_assoc]

end Sys2Proof.Machine

/-! SUPPORT. Predictions sample by sample (rules R173, R210). -/

namespace Sys2Proof.Machine

/-- `PredBlock` is a block: copies of samples, or averages of 2 or 4 neighbours with halves rounded up (rule R173). -/
theorem predBlock_eq_rasterBlock (m : Memory) (p : Plane) (at2 : Vec) (n : Nat) :
    let sample := fun x y : Nat => (m.read (p.base + y * p.width + x)).toNat
    predBlock m p at2 n = rasterBlock n fun i j =>
      let x := (at2.x / 2).toNat + j
      let y := (at2.y / 2).toNat + i
      if at2.x % 2 = 0 then
        if at2.y % 2 = 0 then sample x y else (sample x y + sample x (y + 1) + 1) / 2
      else
        if at2.y % 2 = 0 then (sample x y + sample (x + 1) y + 1) / 2
        else (sample x y + sample (x + 1) y + sample x (y + 1) + sample (x + 1) (y + 1) + 2) / 4 := by
  intro sample
  rw [rasterBlock_eq_flatMap, List.flatMap_def]
  unfold predBlock
  rcases Int.emod_two_eq_zero_or_one at2.x with hx | hx <;> rcases Int.emod_two_eq_zero_or_one at2.y with hy | hy
  · simp [hx, hy, rows_eq, Function.comp_def, sample, Nat.add_assoc]
  · simp [hx, hy, rows_eq, Function.comp_def, sample, Nat.add_assoc, zipWith_tail_map_range, rowSums]
  · simp [hx, hy, rows_eq, Function.comp_def, sample, Nat.add_assoc, zipWith_tail_map_range, pairSums]
  · simp [hx, hy, rows_eq, Function.comp_def, sample, Nat.add_assoc, zipWith_tail_map_range, pairSums, rowSums]

end Sys2Proof.Machine

/-! SUPPORT. `TQMB` where its checks pass: what it checks, the levels it codes, the bytes it stores (rule R233). -/

namespace Sys2Proof.Machine

/-! ### Lengths of predictions, levels and reconstructed blocks -/

theorem predBlock_length (m : Memory) (p : Plane) (at2 : Vec) (n : Nat) : (predBlock m p at2 n).length = n * n := by
  rw [predBlock_eq_rasterBlock, rasterBlock_length]

/-- The prediction of a unit has 256 luma samples and 64 of each chroma (rule R210). -/
theorem predictUnit_lengths (s : State) (mode : CodingMode) (pos : Vec) :
    (predictUnit s mode pos).y.length = 256 ∧ (predictUnit s mode pos).cb.length = 64 ∧
      (predictUnit s mode pos).cr.length = 64 := by
  cases mode with
  | intra => exact ⟨List.length_replicate, List.length_replicate, List.length_replicate⟩
  | forward | backward => exact ⟨predBlock_length .., predBlock_length .., predBlock_length ..⟩
  | interpolated =>
    simp only [predictUnit, predictFrom, average, List.length_zipWith, predBlock_length, Nat.min_self, and_self]

/-- The effective levels of a block are as many as its coefficients and the matrix have. -/
theorem quantBlock_effective_length (intra clampIt : Bool) (qm : List Nat) (q : Nat) (f : List Int) (pred : Word) :
    (quantBlock intra qm q clampIt f pred).effective.length = min f.length qm.length := by
  cases clampIt <;> simp [quantBlock]

/-- Every block of a pass has 64 effective levels. -/
theorem quantPass_effective_lengths (intra clampIt : Bool) (qm : List Nat) (q : Nat) (hqm : qm.length = 64)
    (blocks : List (Component × List Int)) (hblocks : ∀ b ∈ blocks, b.2.length = 64) (d : DcPredictors) :
    ∀ e ∈ (quantPass intra qm q clampIt blocks d).effective, e.length = 64 := by
  induction blocks generalizing d with
  | nil => simp [quantPass]
  | cons b blocks ih =>
    rw [List.forall_mem_cons] at hblocks
    simp only [quantPass, List.forall_mem_cons]
    exact ⟨by rw [quantBlock_effective_length, hblocks.1, hqm, Nat.min_self], ih hblocks.2 _⟩

/-- The escalation ends with a pass at the scale it reports, clamped exactly where it reports exhaustion (rule R226). -/
theorem escalate_result (intra : Bool) (qm : List Nat) (blocks : List (Component × List Int)) (d : DcPredictors)
    (n : Nat) :
    let u := escalate intra qm blocks d n
    u.result = quantPass intra qm u.scale u.exhausted blocks d := by
  induction n with
  | zero => simp only [escalate]; split <;> rfl
  | succ n ih =>
    simp only [escalate]
    split
    · exact ih
    · rfl

theorem unitCoefficients_length (s : State) (pred : UnitSamples) : (unitCoefficients s pred).length = 6 := by
  simp [unitCoefficients, blockComponents, residualBlocks, sixBlocks]

/-- Each of the six coefficient blocks has 64 coefficients. -/
theorem unitCoefficients_block_length (s : State) (pred : UnitSamples) :
    ∀ b ∈ unitCoefficients s pred, b.2.length = 64 := by
  intro b hb
  obtain ⟨x, -, hx⟩ := List.mem_map.mp (List.of_mem_zip hb).2
  rw [← hx, forwardTransform_length]

/-- A quantized unit has six blocks of 64 effective levels. -/
theorem quantizeUnit_effective_lengths (s : State) (mode : CodingMode) (pred : UnitSamples) :
    (quantizeUnit s mode pred).result.effective.length = 6 ∧
      ∀ e ∈ (quantizeUnit s mode pred).result.effective, e.length = 64 := by
  rw [quantizeUnit, escalate_result]
  exact ⟨(quantPass_length ..).2.trans (unitCoefficients_length s pred),
    quantPass_effective_lengths _ _ _ _ (quantMatrix_length s) _ (unitCoefficients_block_length s pred) _⟩

/-! ### Reconstructed samples (rule R230) -/

/-- A reconstructed sample is the clamped sum, as a byte. -/
theorem reconstructSample_toNat (p x : Int) : ((reconstructSample p x).toNat : Int) = max 0 (min (p + x) 255) := by
  unfold reconstructSample clamp
  rw [BitVec.toNat_ofInt]
  omega

/-- Dequantization level by level. -/
theorem dequantize_eq_map_range {qm : List Nat} (q : Nat) {levels : List Int} (hqm : qm.length = 64)
    (hlevels : levels.length = 64) :
    dequantize qm q levels = (List.range 64).map fun p => rdiv (levels.getD p 0 * (qm.getD p 0 : Int) * q) 16 := by
  conv_lhs => rw [eq_map_range_getD 0 hqm, eq_map_range_getD 0 hlevels]
  rw [dequantize, List.zipWith_map, List.zipWith_self]
  simp only [Nat.cast_mul, mul_assoc]

theorem reconstruct_length (xform : Bool) (qm : List Nat) (q : Nat) {pred : List Int} (levels : List Int)
    (h : pred.length = 64) : (reconstruct xform qm q pred levels).length = 64 := by
  simp [reconstruct, h]

/-- A sample of a reconstructed block. -/
theorem reconstruct_getD (xform : Bool) (qm : List Nat) (q : Nat) {pred : List Int} (levels : List Int)
    (h : pred.length = 64) {r : Nat} (hr : r < 64) :
    (((reconstruct xform qm q pred levels).getD r 0).toNat : Int) =
      max 0 (min (pred.getD r 0 + (inverseTransform xform (dequantize qm q levels)).getD r 0) 255) := by
  rw [reconstruct, getD_zipWith _ 0 0 0 (by omega) (by simpa using hr), reconstructSample_toNat]

/-- Each of the six blocks of a unit has 64 samples. -/
theorem sixBlocks_block_length {u : UnitSamples} (hy : u.y.length = 256) (hcb : u.cb.length = 64)
    (hcr : u.cr.length = 64) : ∀ b ∈ sixBlocks u, b.length = 64 := by
  simp [sixBlocks, subBlock_eq_rasterBlock hy, hcb, hcr]

/-- Sample `r` of block `k` of a unit, in the unit's planes (rules R12, R213). -/
theorem sixBlocks_getD {u : UnitSamples} (hy : u.y.length = 256) (hcb : u.cb.length = 64) (hcr : u.cr.length = 64)
    {k r : Nat} (hk : k < 6) (hr : r < 64) :
    ((sixBlocks u).getD k []).getD r 0 =
      ((if k < 4 then u.y.getD (16 * (8 * (k / 2) + r / 8) + (8 * (k % 2) + r % 8)) 0
        else (if k = 4 then u.cb else u.cr).getD r 0 : Nat) : Int) := by
  have hluma : ∀ r0 c0, r0 ≤ 8 → c0 ≤ 8 →
      ((subBlock u.y r0 c0).map Int.ofNat).getD r 0 = (u.y.getD (16 * (r0 + r / 8) + (c0 + r % 8)) 0 : Nat) := by
    intro r0 c0 hr0 hc0
    rw [subBlock_eq_rasterBlock hy hr0 hc0, map_rasterBlock, ← Nat.div_add_mod r 8,
      getD_rasterBlock _ _ (by omega) (by omega), Nat.div_add_mod]
    rfl
  have hchroma : ∀ l : List Nat, l.length = 64 → (l.map Int.ofNat).getD r 0 = (l.getD r 0 : Nat) := by
    intro l hl
    have hrl : r < l.length := by omega
    simp [hrl]
  interval_cases k
  · exact hluma 0 0 (by omega) (by omega)
  · exact hluma 0 8 (by omega) (by omega)
  · exact hluma 8 0 (by omega) (by omega)
  · exact hluma 8 8 (by omega) (by omega)
  · exact hchroma u.cb hcb
  · exact hchroma u.cr hcr

/-- The reconstructed unit has six blocks of 64 bytes. -/
theorem reconstructUnit_lengths (s : State) (mode : CodingMode) (pos : Vec) :
    let pred := predictUnit s mode pos
    (reconstructUnit s pred (quantizeUnit s mode pred)).length = 6 ∧
      ∀ b ∈ reconstructUnit s pred (quantizeUnit s mode pred), b.length = 64 := by
  intro pred
  obtain ⟨hy, hcb, hcr⟩ := predictUnit_lengths s mode pos
  obtain ⟨heff, -⟩ := quantizeUnit_effective_lengths s mode pred
  refine ⟨by simp [reconstructUnit, heff, sixBlocks], fun b hb => ?_⟩
  obtain ⟨k, hk, rfl⟩ := List.getElem_of_mem hb
  rw [reconstructUnit, List.length_zipWith] at hk
  simp only [reconstructUnit, List.getElem_zipWith]
  have hsix : k < (sixBlocks (predictUnit s mode pos)).length := hk.trans_le (Nat.min_le_left _ _)
  exact reconstruct_length _ _ _ _ (sixBlocks_block_length hy hcb hcr _ (List.getElem_mem hsix))

/-- The bytes of the reconstructed unit are the statements' samples (rule R230). -/
theorem reconstructUnit_sample (s : State) (mode : CodingMode) {n : Nat} (hn : n < 384) :
    let pred := predictUnit s mode (unpack s.cur.pos)
    ((((reconstructUnit s pred (quantizeUnit s mode pred)).getD (n / 64) []).getD (n % 64) 0).toNat : Int) =
      reconstructedSample s mode n := by
  intro pred
  obtain ⟨hy, hcb, hcr⟩ := predictUnit_lengths s mode (unpack s.cur.pos)
  obtain ⟨heff, hlevels⟩ := quantizeUnit_effective_lengths s mode pred
  have hk : n / 64 < 6 := by omega
  have hr : n % 64 < 64 := by omega
  have hsix : n / 64 < (sixBlocks pred).length := by simpa [sixBlocks] using hk
  have hpred : ((sixBlocks pred).getD (n / 64) []).length = 64 := by
    rw [List.getD_eq_getElem _ _ hsix]
    exact sixBlocks_block_length hy hcb hcr _ (List.getElem_mem hsix)
  have hlev : ((quantizeUnit s mode pred).result.effective.getD (n / 64) []).length = 64 := by
    rw [List.getD_eq_getElem _ _ (by omega)]
    exact hlevels _ (List.getElem_mem _)
  rw [reconstructUnit, getD_zipWith _ [] [] [] hsix (by omega), reconstruct_getD _ _ _ _ hpred hr,
    sixBlocks_getD hy hcb hcr hk hr, dequantize_eq_map_range _ (quantMatrix_length s) hlev]
  simp only [quantMatrix, getD_map_toNat_toList, show n % 64 % 8 = n % 8 by omega]
  rfl

/-! ### The checks (rule R233 steps 1 to 7) -/

theorem modeUses_forward_iff (mode : CodingMode) :
    modeUses mode .forward = true ↔ mode = .forward ∨ mode = .interpolated := by
  cases mode <;> simp [modeUses]

theorem modeUses_backward_iff (mode : CodingMode) :
    modeUses mode .backward = true ↔ mode = .backward ∨ mode = .interpolated := by
  cases mode <;> simp [modeUses]

/-- The modes a frame type allows, as the statements write it (rule R233 step 2). -/
theorem modeAllowed_iff (s : State) (mode : CodingMode) :
    modeAllowed s mode = true ↔
      mode = .intra ∨ s.frame.ftype = .bidirectional ∨ (s.frame.ftype = .predicted ∧ mode = .forward) := by
  unfold modeAllowed
  cases s.frame.ftype <;> cases mode <;> simp

/-- The addresses of a displaced block's spans are its footprint (rule R174). -/
theorem mem_footprint_iff (p : Plane) (at2 : Vec) (n a : Nat) :
    (∃ sp ∈ footprint p at2 n, sp.first ≤ a ∧ a < sp.first + sp.len) ↔
      footprintAddress p.base p.width at2.x at2.y n a :=
  mem_spans_iff ..

/-- An address lies in one of two runs of spans. -/
theorem mem_spans_append (l l' : List Span) (a : Nat) :
    (∃ sp ∈ l ++ l', sp.first ≤ a ∧ a < sp.first + sp.len) ↔
      (∃ sp ∈ l, sp.first ≤ a ∧ a < sp.first + sp.len) ∨ ∃ sp ∈ l', sp.first ≤ a ∧ a < sp.first + sp.len := by
  simp only [List.mem_append, or_and_right, exists_or]

/-- The addresses of a unit's spans in three planes (rules R175, R231). -/
theorem mem_unitSpans_iff (s : State) (y8 cb8 cr8 : Word) (x y a : Nat) :
    (∃ sp ∈ unitSpans (planesAt s y8 cb8 cr8) x y, sp.first ≤ a ∧ a < sp.first + sp.len) ↔
      unitAddress s y8 cb8 cr8 x y a := by
  rw [unitSpans, mem_spans_append, mem_spans_append, mem_spans_iff, mem_spans_iff, mem_spans_iff, or_assoc]
  rfl

/-- The addresses a prediction from one direction reads (rule R210). -/
theorem mem_predictSpans_iff (s : State) (dir : Dir) (pos mv : Vec) (a : Nat) :
    (∃ sp ∈ predictSpans s dir pos mv, sp.first ≤ a ∧ a < sp.first + sp.len) ↔
      footprintAddress (refSlot s dir).y.toNat (lumaW s) (2 * pos.x + mv.x) (2 * pos.y + mv.y) 16 a ∨
      footprintAddress (refSlot s dir).cb.toNat (chromaW s) (pos.x + tz2 mv.x) (pos.y + tz2 mv.y) 8 a ∨
      footprintAddress (refSlot s dir).cr.toNat (chromaW s) (pos.x + tz2 mv.x) (pos.y + tz2 mv.y) 8 a := by
  rw [predictSpans, mem_spans_append, mem_spans_append, mem_footprint_iff, mem_footprint_iff, mem_footprint_iff,
    or_assoc]
  rfl

/-- The spans of `TQMB` are the addresses it touches (rule R233 step 7). -/
theorem mem_tqmbSpans_iff (s : State) (mode : CodingMode) (a : Nat) :
    (∃ sp ∈ tqmbSpans s mode, sp.first ≤ a ∧ a < sp.first + sp.len) ↔ tqmbTouches s mode a := by
  have hdir : ∀ (dir : Dir) (mv : Vec),
      (∃ sp ∈ (if modeUses mode dir then predictSpans s dir (unpack s.cur.pos) mv else []),
        sp.first ≤ a ∧ a < sp.first + sp.len) ↔
      modeUses mode dir = true ∧ ∃ sp ∈ predictSpans s dir (unpack s.cur.pos) mv,
        sp.first ≤ a ∧ a < sp.first + sp.len := by
    intro dir mv
    split <;> simp [*]
  rw [tqmbSpans, mem_spans_append, modeSpans, mem_spans_append, hdir, hdir, modeUses_forward_iff,
    modeUses_backward_iff, recPlanes, mem_unitSpans_iff, mem_predictSpans_iff, mem_predictSpans_iff, or_comm]
  unfold tqmbTouches
  refine or_congr Iff.rfl ⟨?_, ?_⟩
  · rintro (⟨hmode, h⟩ | ⟨hmode, h⟩)
    · exact ⟨_, _, .inl ⟨hmode, rfl, rfl⟩, h⟩
    · exact ⟨_, _, .inr ⟨hmode, rfl, rfl⟩, h⟩
  · rintro ⟨slot, mv, ⟨hmode, rfl, rfl⟩ | ⟨hmode, rfl, rfl⟩, h⟩
    · exact .inl ⟨hmode, h⟩
    · exact .inr ⟨hmode, h⟩

/-- The memory check passes where every address of the spans exists. -/
theorem requireInMemory_of_forall_lt {s : State} {l : List Span}
    (h : ∀ a, (∃ sp ∈ l, sp.first ≤ a ∧ a < sp.first + sp.len) → a < s.memSize) : requireInMemory s l = .ok () := by
  rw [requireInMemory_eq_ok]
  intro sp hsp
  rcases Nat.eq_zero_or_pos sp.len with hlen | hlen
  · exact .inl hlen
  · have := h (sp.first + sp.len - 1) ⟨sp, hsp, by omega, by omega⟩
    exact .inr (by omega)

/-- Where steps 1 to 6 of rule R233 pass, so do the model's checks. -/
theorem checkTqmb_of_passes {s : State} {mode : CodingMode} (h : tqmbPasses s mode) : checkTqmb s mode = .ok () := by
  obtain ⟨⟨hcoding, huphase, hvalid⟩, hallowed, hscale, hnext, hforward, hbackward, -⟩ := h
  have hready : (inFrame s && !s.frame.uphase && s.cur.valid) = true := by
    rw [(inFrame_iff s).mpr hcoding, huphase, hvalid]; rfl
  have hvectorF : (!modeUses mode .forward || isCandidate s (unpack s.cur.pos) (forwardVector s)) = true := by
    rw [Bool.or_eq_true, Bool.not_eq_true', ← Bool.not_eq_true, ← imp_iff_not_or, modeUses_forward_iff,
      isCandidate_iff]
    exact hforward
  have hvectorB : (!modeUses mode .backward || isCandidate s (unpack s.cur.pos) (backwardVector s)) = true := by
    rw [Bool.or_eq_true, Bool.not_eq_true', ← Bool.not_eq_true, ← imp_iff_not_or, modeUses_backward_iff,
      isCandidate_iff]
    exact hbackward
  have hposition : (s.cur.pos == nextUnitPos s) = true := beq_iff_eq.mpr hnext
  simp only [checkTqmb, hready, (modeAllowed_iff s mode).mpr hallowed, bne_iff_ne.mpr hscale, hposition, hvectorF,
    hvectorB, require_true_bind]
  rfl

/-- Where the checks of rule R233 pass, `TQMB` completes with the coded unit. -/
theorem exec_tqmb_of_passes {s : State} {mode : CodingMode} (h : tqmbPasses s mode) :
    exec (.tqmb mode) s = .next (tqmbResult s mode).advance := by
  have hmem : requireInMemory s (tqmbSpans s mode) = .ok () :=
    requireInMemory_of_forall_lt fun a ha => by
      obtain ⟨-, -, -, -, -, -, hexists⟩ := h
      exact hexists a ((mem_tqmbSpans_iff s mode a).mp ha)
  show execTqmb mode s = _
  rw [execTqmb, checkTqmb_of_passes h, hmem]
  rfl

/-! ### The stored samples -/

/-- The memory a coded unit leaves: its 384 samples stored one after another (rules R230, R231). -/
theorem tqmbResult_mem (s : State) (mode : CodingMode) :
    let pred := predictUnit s mode (unpack s.cur.pos)
    (tqmbResult s mode).mem = s.mem.writeCells ((List.range 384).map fun n => (samplePlace s n,
      ((reconstructUnit s pred (quantizeUnit s mode pred)).getD (n / 64) []).getD (n % 64) 0)) := by
  intro pred
  obtain ⟨hlen, hblock⟩ := reconstructUnit_lengths s mode (unpack s.cur.pos)
  have hstored : (tqmbResult s mode).mem = storeUnit s.mem (recPlanes s) (lo16s s.cur.pos).toNat
      (hi16s s.cur.pos).toNat (reconstructUnit s pred (quantizeUnit s mode pred)) := by
    unfold tqmbResult commitUnit
    dsimp only
    split <;> rfl
  rw [hstored, storeUnit_eq_writeCells _ _ _ _ hlen hblock]
  exact congrArg s.mem.writeCells
    (List.map_congr_left fun n hn => by rw [samplePlace_eq s (List.mem_range.mp hn)])

/-- Settles O38: the last sample stored to a byte is the one it holds. -/
theorem reconstructedSamples : Obligations.ReconstructedSamples := by
  unfold Obligations.ReconstructedSamples
  intro mode s hpass
  refine ⟨_, exec_tqmb_of_passes hpass, fun n hn hlast => ?_⟩
  rw [State.advance_mem, tqmbResult_mem, Memory.read_writeCells_last s.mem (samplePlace s) _ hn hlast,
    reconstructUnit_sample s mode hn]

end Sys2Proof.Machine

/-! SUPPORT. Turns without a command, the actions of `CTRL`, the interrupt registers and the state after reset (rules
R24, R32, R35, R70, R306, R312). -/

namespace Sys2Proof.Machine

/-! ### Turns without a command -/

/-- An idle engine passes its turn (rules R24, R320). -/
theorem step_of_idleTurn {s : State} {turns : List Turn} (hidle : s.run.busy = false)
    (hscript : s.host.script = .engine :: turns) :
    step s = .next { s with host := { s.host with script := turns } } := by
  simp [step, hscript, hidle, State.popTurn]

/-- With the engine idle and no turn left, no agent has a step (log 5). -/
theorem step_of_noTurn {s : State} (hidle : s.run.busy = false) (hscript : s.host.script = []) :
    step s = .fault .noAgentSteps := by
  simp [step, hscript, hidle]

/-- A pending stop is honoured instead of a fetch (rule R312). -/
theorem engineStep_of_stop {s : State} (hstop : s.run.stopReq = true) : engineStep s = .next s.takeStop := by
  simp [engineStep, hstop]

/-- Settles O7: the pending stop by the engine's step, the idle turns by whose turn it is. -/
theorem stopAndIdle : Obligations.StopAndIdle := by
  unfold Obligations.StopAndIdle
  refine ⟨fun s t hturn hbusy hstop => ?_, fun s turns => step_of_idleTurn, fun s => step_of_noTurn⟩
  have ht := engineTurn_eq hturn
  rw [step_of_engineTurn hturn hbusy, engineStep_of_stop (by rw [ht]; exact hstop), ht]
  rfl

/-! ### The actions of `CTRL` (rule R32) -/

/-- A host write of `CTRL` is its actions, whatever the state. -/
theorem hostStep_writeCtrl (s : State) (w : Word) : hostStep (.writeReg 0x001 w) s = .next (writeCtrl s w) := rfl

/-- A write of `CTRL` depends on its six action bits alone (rule R32). -/
theorem writeCtrl_congr (s : State) {w w' : Word} (h : ∀ i ∈ [0, 1, 2, 3, 4, 31], w.getLsbD i = w'.getLsbD i) :
    writeCtrl s w = writeCtrl s w' := by
  simp only [List.forall_mem_cons, List.not_mem_nil, false_imp_iff, implies_true, and_true] at h
  obtain ⟨hgo, hstop, hclear, hrefs, habort, hreset⟩ := h
  simp only [writeCtrl, whenBit, hgo, hstop, hclear, hrefs, habort, hreset]

/-- A write with `SRESET` set resets, whatever the other bits are. -/
theorem writeCtrl_reset (s : State) {w : Word} (h : w.getLsbD 31 = true) : writeCtrl s w = s.resetEngine := by
  simp [writeCtrl, h]

/-- A write with only its `CLRFAULT` bit kept does that action, where the bit is set; the four lemmas below say the same
of the other bits. -/
theorem writeCtrl_and_clear (s : State) (w : Word) : writeCtrl s (w &&& 4) = whenBit w 2 State.clearFault s := by
  simp [writeCtrl, whenBit]

theorem writeCtrl_and_refClear (s : State) (w : Word) :
    writeCtrl s (w &&& 8) = whenBit w 3 State.ctrlRefClear s := by
  simp [writeCtrl, whenBit]

theorem writeCtrl_and_abort (s : State) (w : Word) :
    writeCtrl s (w &&& 16) = whenBit w 4 State.ctrlFrameAbort s := by
  simp [writeCtrl, whenBit]

theorem writeCtrl_and_stop (s : State) (w : Word) : writeCtrl s (w &&& 2) = whenBit w 1 State.ctrlStop s := by
  simp [writeCtrl, whenBit]

theorem writeCtrl_and_go (s : State) (w : Word) : writeCtrl s (w &&& 1) = whenBit w 0 State.ctrlGo s := by
  simp [writeCtrl, whenBit]

/-- Without `SRESET`, a write acts as its five action bits written one after another (rule R32). -/
theorem writeCtrl_eq_chain (s : State) {w : Word} (h : w.getLsbD 31 = false) :
    writeCtrl s w = writeCtrl (writeCtrl (writeCtrl (writeCtrl (writeCtrl s (w &&& 4)) (w &&& 8)) (w &&& 16))
      (w &&& 2)) (w &&& 1) := by
  rw [writeCtrl_and_clear, writeCtrl_and_refClear, writeCtrl_and_abort, writeCtrl_and_stop, writeCtrl_and_go,
    writeCtrl, h]
  rfl

/-- An accepted `REFCLR` clears the valid bit of each slot and changes nothing else. -/
theorem ctrlRefClear_accepted {s : State} (hbusy : s.run.busy = false) (hfs : s.frame.fs = .awaiting) :
    s.ctrlRefClear =
      { s with cfg := { s.cfg with refs := s.cfg.refs.map fun slot => { slot with valid := false } } } := by
  simp [State.ctrlRefClear, hbusy, hfs]

theorem ctrlRefClear_refused {s : State} (h : s.run.busy = true ∨ s.frame.fs ≠ .awaiting) :
    s.ctrlRefClear = s.hostError := by
  rcases h with h | h <;> simp [State.ctrlRefClear, h]

theorem ctrlGo_accepted {s : State} (hbusy : s.run.busy = false) (hfault : s.run.fault = false) :
    s.ctrlGo = s.startEngine := by
  simp [State.ctrlGo, hbusy, hfault]

theorem ctrlGo_refused {s : State} (h : s.run.busy = true ∨ s.run.fault = true) : s.ctrlGo = s.hostError := by
  rcases h with h | h <;> simp [State.ctrlGo, h]

/-- Settles O53: bit by bit where the write is accepted and where it is not, and the chain of the five actions. -/
theorem controlWrite : Obligations.ControlWrite := by
  unfold Obligations.ControlWrite
  intro s refused write
  have hwrite : ∀ {w : Word} {t : State}, writeCtrl s w = t → write w = .next t := by rintro w t rfl; rfl
  refine ⟨rfl, fun w => ?_, rfl, fun hbusy hfs => ⟨s.ctrlRefClear, rfl, fun i => ?_, ?_⟩,
    fun h => hwrite (ctrlRefClear_refused h), fun hbusy => hwrite ?_, fun hbusy => hwrite ?_, fun hbusy => hwrite ?_,
    fun hbusy => hwrite ?_, fun hbusy hfault => hwrite (ctrlGo_accepted hbusy hfault),
    fun h => hwrite (ctrlGo_refused h), fun w hreset => ?_⟩
  · exact hwrite (writeCtrl_congr s (by simp))
  · simp [ctrlRefClear_accepted hbusy hfs]
  · rw [ctrlRefClear_accepted hbusy hfs]
  · show s.ctrlFrameAbort = _
    simp [State.ctrlFrameAbort, hbusy]
  · show s.ctrlFrameAbort = _
    simp [State.ctrlFrameAbort, hbusy, refused, State.hostError]
  · show s.ctrlStop = _
    simp [State.ctrlStop, hbusy]
  · show s.ctrlStop = _
    simp [State.ctrlStop, hbusy]
  · exact ⟨_, _, _, _, rfl, rfl, rfl, rfl, (congrArg Host.Outcome.next (writeCtrl_eq_chain s hreset)).symm⟩

/-- Settles O54: `CLRFAULT` acts before `GO`, so the engine starts, at the `CP` that the fault kept. -/
theorem resumeAfterFault : Obligations.ResumeAfterFault := by
  unfold Obligations.ResumeAfterFault
  intro s code v
  have hgo : writeCtrl (faulted s code v) 5 = (faulted s code v).clearFault.ctrlGo := rfl
  exact ⟨_, hostStep_writeCtrl _ 5, by rw [hgo, ctrlGo_accepted rfl rfl]; rfl, rfl⟩

/-! ### Interrupts (rules R35, R310) -/

/-- The line is high exactly when one of the four sources is pending and enabled. -/
theorem irqLine_iff (s : State) :
    irqLine s = true ↔ ∃ i : Nat, i < 4 ∧ s.irq.status.getLsbD i = true ∧ s.irq.enable.getLsbD i = true := by
  rw [irqLine, bne_iff_ne]
  show ¬s.irq.status &&& s.irq.enable = 0#4 ↔ _
  rw [BitVec.zero_iff_eq_false]
  simp only [BitVec.getLsbD_and, not_forall, Bool.not_eq_false, Bool.and_eq_true]
  refine exists_congr fun i => ⟨fun h => ⟨BitVec.lt_of_getLsbD h.1, h⟩, And.right⟩

/-- Settles O55: bit by bit of the four sources. -/
theorem interrupts : Obligations.Interrupts := by
  unfold Obligations.Interrupts
  intro s w
  refine ⟨rfl, ⟨writeHostControl s .irqst w, rfl, rfl, fun i hi => ?_⟩, irqLine_iff s⟩
  show (s.irq.status &&& ~~~(w.setWidth 4)).getLsbD i = _
  simp [hi]

/-! ### The state after reset (rules R70, R340) -/

/-- Settles O56: both ways of it are `State.resetEngine`, and the reset state field by field. -/
theorem reset : Obligations.Reset := by
  unfold Obligations.Reset
  refine ⟨fun s w hreset => ⟨rfl, congrArg Host.Outcome.next (writeCtrl_reset s hreset)⟩, fun r => ?_, rfl, rfl, rfl,
    rfl, rfl, rfl, fun i => ?_, fun p => ?_, fun k => ?_, fun k => ⟨?_, ?_⟩, fun k n => ?_⟩
  · simp [State.x, State.reset]
  all_goals simp [State.reset]

/-- A reset engine has no open frame and no unit waiting, so what an open frame relies on holds. -/
theorem frameOk_reset : frameOk State.reset := by
  refine ⟨fun h => absurd rfl h, ?_, ?_⟩
  · refine ⟨?_, fun h => absurd rfl h, ?_, ?_, ?_⟩ <;> simp [coding, State.reset]
  · refine ⟨?_, ?_⟩ <;> simp [coding, State.reset]

theorem runOk_reset : runOk State.reset := by unfold runOk; decide

theorem sinkOk_reset : sinkOk State.reset := fun _ _ => BitVec.getLsbD_zero

theorem levelsOk_reset : levelsOk State.reset := fun k n => by simp [State.reset]

/-- Settles O60: invariant by invariant. -/
theorem resetHasInvariants : Obligations.ResetHasInvariants := by
  unfold Obligations.ResetHasInvariants
  exact ⟨⟨rfl, fun c hc => absurd hc List.not_mem_nil⟩, runOk_reset, sinkOk_reset, levelsOk_reset, frameOk_reset⟩

end Sys2Proof.Machine

/-! SUPPORT. The register table row by row (rule R26). -/

namespace Sys2Proof.Machine

/-! ### What a register reads -/

/-- A word below `2 ^ k` has no bit outside the low `k`. -/
theorem and_not_low_eq_zero {w : Word} {k : Nat} (h : w.toNat < 2 ^ k) :
    w &&& ~~~(BitVec.ofNat 32 (2 ^ k - 1)) = 0 := by
  apply BitVec.eq_of_getLsbD_eq
  intro i hi
  rw [BitVec.getLsbD_and, BitVec.getLsbD_not, BitVec.getLsbD_ofNat, Nat.testBit_two_pow_sub_one]
  by_cases hik : i < k
  · simp [hi, hik]
  · have : w.getLsbD i = false := Nat.testBit_lt_two_pow (h.trans_le (Nat.pow_le_pow_right (by omega) (by omega)))
    simp [this]

/-- A register that reads the number `v` of `k` bits, for the last two columns of a row. -/
theorem reads_field {w : Word} {k v : Nat} (hread : w.toNat = v) (hfits : v < 2 ^ k) :
    w.toNat = v ∧ w &&& ~~~(BitVec.ofNat 32 (2 ^ k - 1)) = 0 :=
  ⟨hread, and_not_low_eq_zero (hread ▸ hfits)⟩

/-- A register that reads a whole word. -/
theorem reads_word (w : Word) : w.toNat = w.toNat ∧ w &&& ~~~(0xFFFFFFFF : Word) = 0 :=
  reads_field (k := 32) rfl w.isLt

/-- A register that reads a field of `k` bits, zero-extended. -/
theorem reads_setWidth {k : Nat} (v : BitVec k) (hk : k ≤ 32) :
    (v.setWidth 32).toNat = v.toNat ∧ v.setWidth 32 &&& ~~~(BitVec.ofNat 32 (2 ^ k - 1)) = 0 :=
  reads_field (BitVec.toNat_setWidth_of_le hk) v.isLt

/-- A slot selector reads its number (rule R41). -/
theorem reads_selector (i : Fin 4) :
    (BitVec.ofNat 32 i.val).toNat = i.val ∧ BitVec.ofNat 32 i.val &&& ~~~(0x00000003 : Word) = 0 :=
  reads_field (k := 2) (by rw [BitVec.toNat_ofNat]; omega) i.isLt

/-- The transform selector reads as one bit (rule R46). -/
theorem reads_bit (b : Bool) :
    ((BitVec.ofBool b).setWidth 32).toNat = b.toNat ∧ (BitVec.ofBool b).setWidth 32 &&& ~~~(0x00000001 : Word) = 0 :=
  reads_field (k := 1) (by cases b <;> rfl) b.toNat_lt

/-- The frame type reads its number (rule R37). -/
theorem reads_frameType (t : FrameType) :
    ((frameTypeCode t).setWidth 32).toNat = frameTypeNumber t ∧
      (frameTypeCode t).setWidth 32 &&& ~~~(0x00000003 : Word) = 0 := by
  cases t <;> exact ⟨rfl, rfl⟩

/-- A coding mode reads its number (rules R49, R51). -/
theorem reads_mode (m : CodingMode) :
    ((modeCode m).setWidth 32).toNat = modeNumber m ∧ (modeCode m).setWidth 32 &&& ~~~(0x00000003 : Word) = 0 := by
  cases m <;> exact ⟨rfl, rfl⟩

/-- Two words put together, as a number: the low one below the high one. -/
theorem toNat_append_eq_add {m k : Nat} (hi : BitVec m) (lo : BitVec k) :
    (hi ++ lo).toNat = 2 ^ k * hi.toNat + lo.toNat := by
  rw [BitVec.toNat_append, ← Nat.shiftLeft_add_eq_or_of_lt lo.isLt, Nat.shiftLeft_eq, Nat.mul_comm]

/-- `FLAGS` is the sum of its listed bits (rule R23). -/
theorem toNat_flagsWord (s : State) : (flagsWord s.flags).toNat = flagsValue s := by
  simp only [flagsWord, flagsValue, toNat_append_eq_add, BitVec.toNat_ofBool, BitVec.toNat_zero]
  ring

/-- `STATUS` is the sum of its listed bits (rule R33). -/
theorem toNat_statusWord (s : State) : (statusWord s).toNat = statusValue s := by
  simp only [statusWord, statusValue, toNat_append_eq_add, BitVec.toNat_ofBool, BitVec.toNat_zero, stateDetail_eq]
  ring

theorem flagsValue_lt (s : State) : flagsValue s < 2 ^ 5 := by
  have := s.flags.z.toNat_lt
  have := s.flags.lt.toNat_lt
  have := s.flags.ltu.toNat_lt
  have := s.flags.esc.toNat_lt
  have := s.flags.exh.toNat_lt
  unfold flagsValue
  omega

theorem statusValue_lt (s : State) : statusValue s < 2 ^ 9 := by
  have hdetail : stateDetail s < 16 := stateDetail_eq s ▸ (stateBits s).isLt
  have := s.run.busy.toNat_lt
  have := s.run.halted.toNat_lt
  have := s.run.fault.toNat_lt
  have := s.run.stopped.toNat_lt
  have := s.run.hwErr.toNat_lt
  unfold statusValue
  omega

/-- The control register of a slot is its valid bit above its index (rule R43). -/
theorem toNat_slotControl (slot : RefSlot) :
    (BitVec.ofBool slot.valid ++ 0#15 ++ slot.index).toNat = 2 ^ 31 * slot.valid.toNat + slot.index.toNat := by
  simp only [toNat_append_eq_add, BitVec.toNat_ofBool, BitVec.toNat_zero]
  ring

/-- A representable level is read sign-extended (rule R55). -/
theorem toInt_ofInt_level {q : Int} (h : q.natAbs ≤ 255) : (BitVec.ofInt 32 q).toInt = q := by
  rw [BitVec.toInt_ofInt, Int.bmod_eq_of_le] <;> omega

/-! ### Numbers of registers -/

/-- Past the last of the numbers listed one by one, only the matrix and the level window exist. -/
theorem csrOfNumber_of_ge {n : Nat} (h : 0x05C ≤ n) :
    csrOfNumber n =
      if 0x080 ≤ n ∧ n < 0x0C0 then some (.qm (Fin.ofNat 64 (n - 0x080)))
      else if 0x100 ≤ n ∧ n < 0x280 then
        some (.qc (Fin.ofNat 6 ((n - 0x100) / 64)) (Fin.ofNat 64 ((n - 0x100) % 64)))
      else none := by
  unfold csrOfNumber
  split
  case h_55 => rw [if_neg (by omega)]
  all_goals omega

theorem csrOfNumber_none_iff (n : Nat) : csrOfNumber n = none ↔ missingNumber n ∨ 0x1000 ≤ n := by
  unfold missingNumber
  by_cases h : n < 0x05C
  · interval_cases n <;> decide
  · rw [csrOfNumber_of_ge (by omega)]
    split
    · simp only [reduceCtorEq, false_iff]; omega
    · split
      · simp only [reduceCtorEq, false_iff]; omega
      · simp only [true_iff]; omega


/-! ### The rows -/

/-- What the statement says of a row: the number names the register, and its class, reset value, bits and field are the
row's. -/
def RegisterRow.correct (row : RegisterRow) : Prop :=
  csrOfNumber row.number = some row.register ∧ csrClass row.register = row.access ∧
    csrRead State.reset row.register = row.reset ∧
    ∀ s : State, (csrRead s row.register).toNat = row.holds s ∧ csrRead s row.register &&& ~~~row.bits = 0

theorem controlRows_correct : ∀ row ∈ controlRows, row.correct := by
  simp only [controlRows, List.forall_mem_cons, List.not_mem_nil, false_imp_iff, implies_true, and_true]
  exact
    ⟨⟨rfl, rfl, rfl, fun _ => reads_word _⟩,
     ⟨rfl, rfl, rfl, fun _ => ⟨rfl, BitVec.zero_and⟩⟩,
     ⟨rfl, rfl, rfl, fun s => reads_field (k := 9) (toNat_statusWord s) (statusValue_lt s)⟩,
     ⟨rfl, rfl, rfl, fun _ => reads_setWidth _ (by decide)⟩,
     ⟨rfl, rfl, rfl, fun _ => reads_word _⟩,
     ⟨rfl, rfl, rfl, fun _ => reads_word _⟩,
     ⟨rfl, rfl, rfl, fun _ => reads_setWidth _ (by decide)⟩,
     ⟨rfl, rfl, rfl, fun _ => reads_setWidth _ (by decide)⟩,
     ⟨rfl, rfl, rfl, fun _ => reads_word _⟩,
     ⟨rfl, rfl, rfl, fun s => reads_field (k := 5) (toNat_flagsWord s) (flagsValue_lt s)⟩⟩

theorem frameRows_correct : ∀ row ∈ frameRows, row.correct := by
  simp only [frameRows, List.forall_mem_cons, List.not_mem_nil, false_imp_iff, implies_true, and_true]
  exact
    ⟨⟨rfl, rfl, rfl, fun _ => reads_setWidth _ (by decide)⟩,
     ⟨rfl, rfl, rfl, fun _ => reads_setWidth _ (by decide)⟩,
     ⟨rfl, rfl, rfl, fun s => reads_frameType s.frame.ftype⟩,
     ⟨rfl, rfl, rfl, fun _ => reads_setWidth _ (by decide)⟩,
     ⟨rfl, rfl, rfl, fun _ => reads_word _⟩,
     ⟨rfl, rfl, rfl, fun _ => reads_word _⟩,
     ⟨rfl, rfl, rfl, fun _ => reads_word _⟩,
     ⟨rfl, rfl, rfl, fun _ => reads_word _⟩,
     ⟨rfl, rfl, rfl, fun _ => reads_word _⟩,
     ⟨rfl, rfl, rfl, fun _ => reads_word _⟩,
     ⟨rfl, rfl, rfl, fun s => reads_selector s.cfg.fwdSel⟩,
     ⟨rfl, rfl, rfl, fun s => reads_selector s.cfg.bwdSel⟩⟩

theorem searchRows_correct : ∀ row ∈ searchRows, row.correct := by
  simp only [searchRows, List.forall_mem_cons, List.not_mem_nil, false_imp_iff, implies_true, and_true]
  exact
    ⟨⟨rfl, rfl, rfl, fun _ => reads_setWidth _ (by decide)⟩,
     ⟨rfl, rfl, rfl, fun _ => reads_word _⟩,
     ⟨rfl, rfl, rfl, fun _ => reads_setWidth _ (by decide)⟩,
     ⟨rfl, rfl, rfl, fun _ => reads_word _⟩,
     ⟨rfl, rfl, rfl, fun _ => reads_word _⟩,
     ⟨rfl, rfl, rfl, fun _ => reads_word _⟩,
     ⟨rfl, rfl, rfl, fun _ => reads_word _⟩,
     ⟨rfl, rfl, rfl, fun _ => reads_word _⟩,
     ⟨rfl, rfl, rfl, fun s => reads_mode s.me.memode⟩,
     ⟨rfl, rfl, rfl, fun _ => reads_word _⟩,
     ⟨rfl, rfl, rfl, fun _ => reads_word _⟩,
     ⟨rfl, rfl, rfl, fun _ => reads_word _⟩⟩

theorem quantRows_correct : ∀ row ∈ quantRows, row.correct := by
  simp only [quantRows, List.forall_mem_cons, List.not_mem_nil, false_imp_iff, implies_true, and_true]
  exact
    ⟨⟨rfl, rfl, rfl, fun _ => reads_setWidth _ (by decide)⟩,
     ⟨rfl, rfl, rfl, fun _ => reads_setWidth _ (by decide)⟩,
     ⟨rfl, rfl, rfl, fun s => reads_bit s.cfg.xform⟩,
     ⟨rfl, rfl, rfl, fun _ => reads_setWidth _ (by decide)⟩,
     ⟨rfl, rfl, rfl, fun _ => reads_setWidth _ (by decide)⟩,
     ⟨rfl, rfl, rfl, fun _ => reads_word _⟩,
     ⟨rfl, rfl, rfl, fun _ => reads_word _⟩,
     ⟨rfl, rfl, rfl, fun _ => reads_word _⟩,
     ⟨rfl, rfl, rfl, fun _ => reads_word _⟩,
     ⟨rfl, rfl, rfl, fun _ => reads_word _⟩⟩

theorem unitRows_correct : ∀ row ∈ unitRows, row.correct := by
  simp only [unitRows, List.forall_mem_cons, List.not_mem_nil, false_imp_iff, implies_true, and_true]
  exact
    ⟨⟨rfl, rfl, rfl, fun _ => reads_word _⟩,
     ⟨rfl, rfl, rfl, fun _ => reads_word _⟩,
     ⟨rfl, rfl, rfl, fun s => reads_mode s.mb.mode⟩,
     ⟨rfl, rfl, rfl, fun _ => reads_setWidth _ (by decide)⟩,
     ⟨rfl, rfl, rfl, fun _ => reads_word _⟩,
     ⟨rfl, rfl, rfl, fun _ => reads_word _⟩,
     ⟨rfl, rfl, rfl, fun _ => reads_word _⟩,
     ⟨rfl, rfl, rfl, fun _ => reads_word _⟩,
     ⟨rfl, rfl, rfl, fun _ => reads_word _⟩,
     ⟨rfl, rfl, rfl, fun _ => reads_setWidth _ (by decide)⟩⟩

theorem registerRows_correct : ∀ row ∈ registerRows, row.correct := by
  simp only [registerRows, List.forall_mem_append]
  exact ⟨⟨⟨⟨controlRows_correct, frameRows_correct⟩, searchRows_correct⟩, quantRows_correct⟩, unitRows_correct⟩

/-! ### The slots, the matrix and the level window -/

/-- The four numbers of a slot (rule R43). -/
theorem csrOfNumber_slot (i : Fin 4) :
    csrOfNumber (0x020 + 4 * i.val) = some (.refCtl i) ∧ csrOfNumber (0x020 + 4 * i.val + 1) = some (.refY i) ∧
      csrOfNumber (0x020 + 4 * i.val + 2) = some (.refCb i) ∧
      csrOfNumber (0x020 + 4 * i.val + 3) = some (.refCr i) := by
  revert i; decide

/-- The number of an entry of the matrix (rule R54). -/
theorem csrOfNumber_matrix (p : Fin 64) : csrOfNumber (0x080 + p.val) = some (.qm p) := by
  rw [csrOfNumber_of_ge (by omega), if_pos (by omega), Nat.add_sub_cancel_left, Fin.ofNat_val_eq_self]

/-- The number of a level of the window (rule R55). -/
theorem csrOfNumber_level (k : Fin 6) (n : Fin 64) :
    csrOfNumber (0x100 + 64 * k.val + n.val) = some (.qc k n) := by
  rw [csrOfNumber_of_ge (by omega), if_neg (by omega), if_pos (by omega)]
  rw [show (0x100 + 64 * k.val + n.val - 0x100) / 64 = k.val by omega,
    show (0x100 + 64 * k.val + n.val - 0x100) % 64 = n.val by omega, Fin.ofNat_val_eq_self, Fin.ofNat_val_eq_self]

theorem csrRead_reset_slot (i : Fin 4) :
    ∀ c ∈ [Csr.refCtl i, .refY i, .refCb i, .refCr i], csrClass c = .rwf ∧ csrRead State.reset c = 0 := by
  simp [csrClass, csrRead, State.reset]

/-- Settles O17: the rows, then the three ranges of numbers, then the numbers left out. -/
theorem registerTable : Obligations.RegisterTable := by
  unfold Obligations.RegisterTable
  refine ⟨registerRows_correct,
    fun i s => ⟨csrOfNumber_slot i, csrRead_reset_slot i, toNat_slotControl s.cfg.refs[i], rfl, rfl, rfl⟩,
    fun p s => ⟨csrOfNumber_matrix p, rfl, ?_, BitVec.toNat_setWidth_of_le (by decide)⟩,
    fun k n s => ⟨csrOfNumber_level k n, rfl, ?_, toInt_ofInt_level⟩, csrOfNumber_none_iff⟩
  · simp [csrRead, State.reset]
  · simp [csrRead, State.reset]

end Sys2Proof.Machine

/-! SUPPORT. What every command can do to the parts of the state that no command may touch freely, said once: an
outcome of a command is a fault, `HALT`'s, or a completion within `CommandFrame` (rules R25, R140, R304, R315). -/

namespace Sys2Proof.Machine

/-! ### Checks, then an answer -/

/-- Whatever state the checks of a command let through satisfies `P`. -/
def Yields (P : State → Prop) (r : Except Trap State) : Prop := ∀ u, r = .ok u → P u

theorem Yields.ok {P : State → Prop} {u : State} (h : P u) : Yields P (.ok u) := by
  rintro _ ⟨⟩; exact h

theorem Yields.error {P : State → Prop} (t : Trap) : Yields P (.error t) := by
  rintro _ ⟨⟩

/-- A check answers no state, so what it guards decides. -/
theorem Yields.check {P : State → Prop} {c : Except Trap Unit} {f : Unit → Except Trap State}
    (h : Yields P (f ())) : Yields P (c >>= f) := by
  cases c with
  | ok => exact h
  | error t => exact Yields.error t

/-- Behind a condition, the condition holds. -/
theorem Yields.require {P : State → Prop} {b : Bool} {t : Trap} {f : Unit → Except Trap State}
    (h : b = true → Yields P (f ())) : Yields P (require b t >>= f) := by
  cases b with
  | true => exact h rfl
  | false => exact Yields.error t

/-- Behind `PutBits`, the string is appended (rule R251). -/
theorem Yields.putBits {P : State → Prop} {s : State} {l : List Bool} {f : State → Except Trap State}
    (h : Yields P (f (s.appended l))) : Yields P (putBits s l >>= f) := by
  cases hput : Machine.putBits s l with
  | ok u => rw [(putBits_ok hput).2]; exact h
  | error t => exact Yields.error t

theorem Yields.putBits_last {P : State → Prop} {s : State} {l : List Bool} (h : P (s.appended l)) :
    Yields P (Machine.putBits s l) := fun _ hput => (putBits_ok hput).2 ▸ h

/-! ### The frame of a completed command -/

/-- What a completed command leaves as it was, and how it can change what it may change, whatever its operands (rules
R35, R251, R287, R315). -/
structure CommandFrame (s t : State) : Prop where
  run : t.run = s.run
  enable : t.irq.enable = s.irq.enable
  pending : s.irq.status &&& ~~~t.irq.status = 0
  host : t.host = s.host
  memSize : t.memSize = s.memSize
  lockedConfig : s.frame.fs ≠ .awaiting → { t.cfg with refs := s.cfg.refs } = s.cfg
  openConfig : s.frame.fs ≠ .awaiting → t.frame.fs ≠ .awaiting → t.cfg = s.cfg
  lockedSink : s.frame.fs ≠ .awaiting → t.sink.base = s.sink.base ∧ t.sink.limit = s.sink.limit
  sink : (∃ l, t.sink = (s.appended l).sink) ∨ ∃ c v, t.sink = (csrStore s c v).sink
  levels : t.qc = s.qc ∨ ∃ mode, t.qc = (tqmbResult s mode).qc

/-- No bit is both in a word and outside it joined with others. -/
theorem and_not_or_self {k : Nat} (a b : BitVec k) : a &&& ~~~(a ||| b) = 0 := by
  ext i hi
  simp only [BitVec.getElem_and, BitVec.getElem_not, BitVec.getElem_or]
  cases a[i] <;> simp

/-- Appending a string, and then writing what is not control state, stays within the frame. -/
theorem commandFrame_appended (s : State) (l : List Bool) (frame : FrameRegs) (me : SearchRegs) (cur : CurUnit)
    (quant : QuantRegs) (mb : UnitRegs) :
    CommandFrame s { s.appended l with frame := frame, me := me, cur := cur, quant := quant, mb := mb } where
  run := rfl
  enable := rfl
  pending := BitVec.and_not_self _
  host := rfl
  memSize := rfl
  lockedConfig _ := rfl
  openConfig _ _ := rfl
  lockedSink _ := ⟨appendBits_base .., appendBits_limit ..⟩
  sink := .inl ⟨l, rfl⟩
  levels := .inl rfl

theorem CommandFrame.refl (s : State) : CommandFrame s s :=
  commandFrame_appended s [] s.frame s.me s.cur s.quant s.mb

/-- So does writing what is neither control state nor the sink. -/
theorem commandFrame_update (s : State) (cp : Word) (flags : Flags) (me : SearchRegs) (cur : CurUnit) (mem : Memory) :
    CommandFrame s { s with cp := cp, flags := flags, me := me, cur := cur, mem := mem } :=
  { CommandFrame.refl s with }

/-- Moving `CP` on stays within the frame. -/
theorem CommandFrame.advance {s t : State} (h : CommandFrame s t) : CommandFrame s t.advance :=
  { h with }

/-- A write of a general register stays within the frame. -/
theorem CommandFrame.setX {s t : State} (h : CommandFrame s t) (r : Reg) (v : Word) : CommandFrame s (t.setX r v) := by
  rw [State.setX_eq]
  exact { h with }

/-- A register that a command may write is one its class and the frame let through (rules R25, R155). -/
theorem commandFrame_csrStore {s : State} {c : Csr} (v : Word) (hlock : csrClass c ≠ .rwf ∨ s.frame.fs = .awaiting) :
    CommandFrame s (csrStore s c v) := by
  obtain ⟨-, hrun, -, hirq, -, hqc, -, -, hsize, hhost⟩ := csrStore_frame s c v
  have hcfg : s.frame.fs ≠ .awaiting → (csrStore s c v).cfg = s.cfg := fun hopen =>
    csrStore_cfg s c v (hlock.resolve_right hopen)
  exact {
    run := hrun
    enable := by rw [hirq]
    pending := by rw [hirq]; simp
    host := hhost
    memSize := hsize
    lockedConfig := fun hopen => by rw [hcfg hopen]
    openConfig := fun hopen _ => hcfg hopen
    lockedSink := fun hopen => by rw [csrStore_sink s c v (hlock.resolve_right hopen)]; exact ⟨rfl, rfl⟩
    sink := .inr ⟨c, v, rfl⟩
    levels := .inl hqc }

/-- A coded unit changes levels and may raise the pending bit EXH, and no other control state (rule R233). -/
theorem commandFrame_tqmbResult (s : State) (mode : CodingMode) : CommandFrame s (tqmbResult s mode) := by
  have hparts : (tqmbResult s mode).run = s.run ∧ (tqmbResult s mode).cfg = s.cfg ∧
      (tqmbResult s mode).sink = s.sink ∧ (tqmbResult s mode).host = s.host ∧
      (tqmbResult s mode).memSize = s.memSize ∧ (tqmbResult s mode).irq.enable = s.irq.enable ∧
      ∃ b, (tqmbResult s mode).irq.status = s.irq.status ||| b := by
    unfold tqmbResult commitUnit
    dsimp only
    split
    · exact ⟨rfl, rfl, rfl, rfl, rfl, rfl, irqExh, rfl⟩
    · exact ⟨rfl, rfl, rfl, rfl, rfl, rfl, 0, BitVec.or_zero.symm⟩
  obtain ⟨hrun, hcfg, hsink, hhost, hsize, henable, b, hstatus⟩ := hparts
  exact {
    run := hrun
    enable := henable
    pending := by rw [hstatus]; exact and_not_or_self _ _
    host := hhost
    memSize := hsize
    lockedConfig := fun _ => by rw [hcfg]
    openConfig := fun _ _ => hcfg
    lockedSink := fun _ => by rw [hsink]; exact ⟨rfl, rfl⟩
    sink := .inl ⟨[], hsink⟩
    levels := .inr ⟨mode, rfl⟩ }

/-- A command that closes the frame may change the reference set (rule R286). -/
theorem commandFrame_closeFrame (s : State) (refs : Vector RefSlot 4) (frame : FrameRegs)
    (hclosed : frame.fs = .awaiting) : CommandFrame s { s with cfg := { s.cfg with refs := refs }, frame := frame } :=
  { CommandFrame.refl s with
    lockedConfig := fun _ => rfl
    openConfig := fun _ hopen => absurd hclosed hopen }

/-- Completion of a command whose answer is within the frame. -/
theorem complete_commandFrame {s t : State} {r : Except Trap State} (h : complete s r = .next t)
    (hr : Yields (CommandFrame s) r) : (∃ e, t = s.takeFault e) ∨ CommandFrame s t := by
  rcases complete_cases h with ⟨u, hu, rfl⟩ | ⟨e, -, rfl⟩
  · exact .inr (hr u hu).advance
  · exact .inl ⟨e, rfl⟩

/-- The same of a command that has no checks. -/
theorem completed_commandFrame {s t u : State} (h : complete s (.ok u) = .next t) (hu : CommandFrame s u) :
    (∃ e, t = s.takeFault e) ∨ CommandFrame s t := complete_commandFrame h (.ok hu)

/-! ### Every command -/

/-- A command other than `HALT` ends in a fault or completes within the frame. -/
theorem exec_commandFrame {i : Instr} {s t : State} (hi : i ≠ .halt) (h : exec i s = .next t) :
    (∃ e, t = s.takeFault e) ∨ CommandFrame s t := by
  cases i with
  | halt => exact absurd rfl hi
  | br cond off => cases h; exact .inr (commandFrame_update ..)
  | nop => exact completed_commandFrame h (.refl s)
  | addi | ori | lui | add | sub => exact completed_commandFrame h (.setX (.refl s) _ _)
  | cmp => exact completed_commandFrame h (commandFrame_update ..)
  | ldw => exact complete_commandFrame h (.check (.ok (.setX (.refl s) _ _)))
  | stw => exact complete_commandFrame h (.check (.ok (commandFrame_update ..)))
  | rdcsr rd csr =>
    refine complete_commandFrame h ?_
    split
    · exact .error _
    · exact .ok (.setX (.refl s) _ _)
  | wrcsr csr ra =>
    refine complete_commandFrame h ?_
    split
    · exact .error _
    · refine .check (.require fun hlock => .ok (commandFrame_csrStore _ ?_))
      simpa using hlock
  | ldcur => exact complete_commandFrame h (.check (.check (.check (.ok (commandFrame_update ..)))))
  | metric => exact complete_commandFrame h (.check (.check (.check (.check (.check (.ok (.setX (.refl s) _ _)))))))
  | act => exact complete_commandFrame h (.check (.ok (.setX (commandFrame_update ..) _ _)))
  | msrch =>
    exact complete_commandFrame h (.check (.check (.check (.check (.ok (.setX (commandFrame_update ..) _ _))))))
  | mdec => exact complete_commandFrame h (.check (.ok (.setX (commandFrame_update ..) _ _)))
  | tqmb mode => exact complete_commandFrame h (.check (.check (.ok (commandFrame_tqmbResult s mode))))
  | ecmb => exact complete_commandFrame h (.check (.putBits (.ok (commandFrame_appended ..))))
  | putb | align => exact complete_commandFrame h (.putBits_last (commandFrame_appended ..))
  | flush =>
    refine complete_commandFrame h ?_
    split
    · exact .ok (.refl s)
    · exact .check (.check (.ok (commandFrame_update ..)))
  | frmbeg => exact complete_commandFrame h (.check (.check (.putBits (.ok (commandFrame_appended ..)))))
  | frmend => exact complete_commandFrame h (.check (.check (.putBits (.ok (commandFrame_appended ..)))))
  | frmnext => exact complete_commandFrame h (.check (.ok (commandFrame_closeFrame s _ _ rfl)))

/-- Every command in every state answers a next state (rule R352). -/
theorem exec_next (i : Instr) (s : State) : ∃ t, exec i s = .next t := by
  cases i with
  | halt | br | nop | addi | ori | lui | add | sub | cmp => exact ⟨_, rfl⟩
  | _ => exact complete_next s _

/-! ### What no command can do -/

/-- Settles O10: a fault and `HALT` write the run state and pending bits alone; every other command is in the frame. -/
theorem engineCannot : Obligations.EngineCannot := by
  unfold Obligations.EngineCannot
  intro i s t h
  by_cases hhalt : i = .halt
  · subst hhalt
    cases h
    exact ⟨rfl, and_not_or_self _ _, rfl, fun _ => rfl, rfl, id, rfl, rfl, fun _ => rfl, fun _ _ => ⟨rfl, rfl, rfl⟩⟩
  rcases exec_commandFrame hhalt h with ⟨e, rfl⟩ | hframe
  · exact ⟨rfl, and_not_or_self _ _, rfl, fun _ => rfl, rfl, fun _ => rfl, rfl, rfl, fun _ => rfl,
      fun _ _ => ⟨rfl, rfl, rfl⟩⟩
  · have hrun := hframe.run
    exact ⟨hframe.enable, hframe.pending, by rw [hrun], by rw [hrun]; exact id, by rw [hrun], by rw [hrun]; exact id,
      hframe.host, hframe.memSize, hframe.lockedConfig,
      fun htopen hopen => ⟨hframe.openConfig hopen htopen, hframe.lockedSink hopen⟩⟩

end Sys2Proof.Machine

/-! SUPPORT. Steps taken apart by whose turn it is, host accesses by what they do, and what an invariant needs so that
every step keeps it (rules R13, R32, R321, R352). -/

namespace Sys2Proof.Machine

/-! ### Outcomes of steps -/

/-- Everything an engine step can be: a stop honoured, a fault of the fetch, or a command. -/
theorem engineStep_cases (s : State) :
    (s.run.stopReq = true ∧ engineStep s = .next s.takeStop) ∨ (∃ e, engineStep s = .next (s.takeFault e)) ∨
      ∃ i, engineStep s = exec i s := by
  by_cases hstop : s.run.stopReq = true
  · exact .inl ⟨hstop, engineStep_of_stop hstop⟩
  · unfold engineStep
    rw [if_neg hstop]
    cases fetch s with
    | error e => exact .inr (.inl ⟨e, rfl⟩)
    | ok i => exact .inr (.inr ⟨i, rfl⟩)

/-- An engine step always answers a next state. -/
theorem engineStep_next (s : State) : ∃ t, engineStep s = .next t := by
  rcases engineStep_cases s with ⟨-, h⟩ | ⟨e, h⟩ | ⟨i, h⟩
  · exact ⟨_, h⟩
  · exact ⟨_, h⟩
  · exact h ▸ exec_next i s

/-- A host access answers a next state, unless it names an address that does not exist (log 7). -/
theorem hostStep_next_or_absent (a : HostAccess) (s : State) :
    (∃ t, hostStep a s = .next t) ∨
      ∃ address, s.memSize ≤ address ∧ hostStep a s = .fault (.hostAddressAbsent address) := by
  cases a with
  | readReg | writeReg | resetInput => exact .inl ⟨_, rfl⟩
  | readByte address | writeByte address v =>
    by_cases h : address < s.memSize
    · exact .inl ⟨_, if_pos h⟩
    · exact .inr ⟨address, Nat.le_of_not_lt h, if_neg h⟩

/-- Everything a step can be, by whose turn it is. -/
theorem step_cases (s : State) :
    (∃ a turns, s.host.script = .host a :: turns ∧
      step s = hostStep a { s with host := { s.host with script := turns } }) ∨
    (s.run.busy = true ∧ ∃ u, engineTurn s u ∧ step s = engineStep u) ∨
    (s.run.busy = false ∧ ∃ turns, s.host.script = .engine :: turns ∧
      step s = .next { s with host := { s.host with script := turns } }) ∨
    (s.run.busy = false ∧ s.host.script = [] ∧ step s = .fault .noAgentSteps) := by
  rcases hscript : s.host.script with _ | ⟨_ | a, turns⟩
  · cases hbusy : s.run.busy with
    | true =>
      have hturn : engineTurn s s := .inl ⟨hscript, rfl⟩
      exact .inr (.inl ⟨rfl, s, hturn, step_of_engineTurn hturn hbusy⟩)
    | false => exact .inr (.inr (.inr ⟨rfl, rfl, step_of_noTurn hbusy hscript⟩))
  · cases hbusy : s.run.busy with
    | true =>
      have hturn : engineTurn s _ := .inr ⟨turns, hscript, rfl⟩
      exact .inr (.inl ⟨rfl, _, hturn, step_of_engineTurn hturn hbusy⟩)
    | false => exact .inr (.inr (.inl ⟨rfl, turns, rfl, step_of_idleTurn hbusy hscript⟩))
  · exact .inl ⟨a, turns, rfl, step_of_hostTurn hscript⟩

/-- A step answers a next state, or stops for one of the model's two reasons (logs 5 and 7). -/
theorem step_next_or_stops (s : State) :
    (∃ t, step s = .next t) ∨ (step s = .fault .noAgentSteps ∧ s.host.script = [] ∧ s.run.busy = false) ∨
      ∃ address, s.memSize ≤ address ∧ step s = .fault (.hostAddressAbsent address) := by
  rcases step_cases s with ⟨a, turns, -, hstep⟩ | ⟨-, u, -, hstep⟩ | ⟨-, turns, -, hstep⟩ | ⟨hidle, hscript, hstep⟩ <;>
    rw [hstep]
  · exact (hostStep_next_or_absent a _).imp_right .inr
  · exact .inl (engineStep_next u)
  · exact .inl ⟨_, rfl⟩
  · exact .inr (.inl ⟨rfl, hscript, hidle⟩)

/-- Settles O8: command by command through `exec_next`, step by step through whose turn it is. -/
theorem everyCommandHasAnOutcome : Obligations.EveryCommandHasAnOutcome := by
  unfold Obligations.EveryCommandHasAnOutcome
  refine ⟨exec_next, fun s r h => ?_, fun s f h => ?_⟩ <;>
    rcases step_next_or_stops s with ⟨t, ht⟩ | ⟨ht, hscript, hidle⟩ | ⟨address, haddr, ht⟩ <;> rw [ht] at h <;> cases h
  · exact .inl ⟨rfl, hscript, hidle⟩
  · exact .inr ⟨address, rfl, haddr⟩

/-! ### Everything a host access can do -/

/-- A host register write is an action of `CTRL`, a change of the interrupt registers, an accepted store, or refused
(rules R25, R32, R35, R321). -/
theorem hostWriteReg_cases (s : State) (n : Nat) (w : Word) :
    hostWriteReg s n w = s.hostError ∨ hostWriteReg s n w = writeCtrl s w ∨
      (∃ irq, hostWriteReg s n w = { s with irq := irq }) ∨
      ∃ c, s.run.busy = false ∧ (csrClass c = .rwf → s.frame.fs = .awaiting) ∧ hostWriteReg s n w = csrStore s c w := by
  cases hn : csrOfNumber n with
  | none => exact .inl (hostWriteReg_missing w hn)
  | some c =>
    cases hclass : csrClass c with
    | ro => exact .inl (hostWriteReg_readOnly w hn hclass)
    | hc =>
      have hwrite : hostWriteReg s n w = writeHostControl s c w := by simp only [hostWriteReg, hn, hclass]
      rw [hwrite]
      cases c with
      | ctrl => exact .inr (.inl rfl)
      | _ => exact .inr (.inr (.inl ⟨_, rfl⟩))
    | rw | hi =>
      cases hbusy : s.run.busy with
      | true => exact .inl (hostWriteReg_busy w hn (by simp [hclass]) hbusy)
      | false =>
        exact .inr (.inr (.inr ⟨c, rfl, by simp [hclass], hostWriteReg_accepted w hn hbusy (by simp [hclass])⟩))
    | rwf =>
      cases hbusy : s.run.busy with
      | true => exact .inl (hostWriteReg_busy w hn (by simp [hclass]) hbusy)
      | false =>
        by_cases hfs : s.frame.fs = .awaiting
        · exact .inr (.inr (.inr ⟨c, rfl, fun _ => hfs, hostWriteReg_accepted w hn hbusy (by simp [hclass, hfs])⟩))
        · exact .inl (hostWriteReg_frameLocked w hn hclass hfs)

/-- Every host access that answers a next state, by what it does (rule R13). -/
theorem hostStep_cases {a : HostAccess} {s t : State} (h : hostStep a s = .next t) :
    (∃ w, t = s.hostSees w) ∨ (∃ n w, t = hostWriteReg s n w) ∨
      (∃ address v, address < s.memSize ∧ t = { s with mem := s.mem.write address v }) ∨ t = s.resetEngine := by
  cases a with
  | readReg n => cases h; exact .inl ⟨_, rfl⟩
  | writeReg n w => cases h; exact .inr (.inl ⟨n, w, rfl⟩)
  | readByte address =>
    simp only [hostStep] at h
    split at h
    · cases h; exact .inl ⟨_, rfl⟩
    · cases h
  | writeByte address v =>
    simp only [hostStep] at h
    split at h
    · next haddr => cases h; exact .inr (.inr (.inl ⟨address, v, haddr, rfl⟩))
    · cases h
  | resetInput => cases h; exact .inr (.inr (.inr rfl))

/-- What holds of a state holds after an action that keeps it, taken or not. -/
theorem whenBit_keeps {P : State → Prop} {act : State → State} (hact : ∀ s, P s → P (act s)) (w : Word) (i : Nat)
    {s : State} (h : P s) : P (whenBit w i act s) := by
  unfold whenBit
  split
  · exact hact s h
  · exact h

/-- What reset and the five actions keep, every write of `CTRL` keeps (rule R32). -/
theorem writeCtrl_keeps {P : State → Prop} (hreset : ∀ s, P s → P s.resetEngine) (hclear : ∀ s, P s → P s.clearFault)
    (hrefs : ∀ s, P s → P s.ctrlRefClear) (habort : ∀ s, P s → P s.ctrlFrameAbort) (hstop : ∀ s, P s → P s.ctrlStop)
    (hgo : ∀ s, P s → P s.ctrlGo) (w : Word) {s : State} (h : P s) : P (writeCtrl s w) := by
  unfold writeCtrl
  split
  · exact hreset s h
  · exact whenBit_keeps hgo w 0 (whenBit_keeps hstop w 1 (whenBit_keeps habort w 4 (whenBit_keeps hrefs w 3
      (whenBit_keeps hclear w 2 h))))

/-! ### Every step -/

/-- What is kept by each agent's own steps, and is no matter of the host script, every step keeps. -/
theorem step_keeps {P : State → Prop} (hhost : ∀ s host, P s → P { s with host := host })
    (haccess : ∀ a s t, hostStep a s = .next t → P s → P t)
    (hengine : ∀ s t, s.run.busy = true → engineStep s = .next t → P s → P t) {s t : State} (h : step s = .next t)
    (hs : P s) : P t := by
  rcases step_cases s with ⟨a, turns, -, hstep⟩ | ⟨hbusy, u, hturn, hstep⟩ | ⟨-, turns, -, hstep⟩ | ⟨-, -, hstep⟩ <;>
    rw [hstep] at h
  · exact haccess a _ t h (hhost s _ hs)
  · have hu := engineTurn_eq hturn
    exact hengine u t (by rw [hu]; exact hbusy) h (by rw [hu]; exact hhost s _ hs)
  · cases h; exact hhost s _ hs
  · cases h

end Sys2Proof.Machine

/-! SUPPORT. What every step keeps: a legal run state, the unused bits of the partial byte, representable levels (rules
R24, R53, R63, R223). -/

namespace Sys2Proof.Machine

/-! ### The run state (rule R24) -/

/-- A running engine is neither halted nor stopped. -/
theorem runOk.of_busy {s : State} (h : runOk s) (hbusy : s.run.busy = true) :
    s.run.halted = false ∧ s.run.stopped = false := by
  obtain ⟨hhalted, hstopped, -⟩ := h
  simp_all

/-- The run state alone decides. -/
theorem runOk.congr {s t : State} (h : runOk s) (hrun : t.run = s.run) : runOk t := by
  unfold runOk; rw [hrun]; exact h

/-- A command of a running engine leaves a legal run state. -/
theorem exec_keeps_runOk {i : Instr} {s t : State} (hok : runOk s) (hbusy : s.run.busy = true)
    (h : exec i s = .next t) : runOk t := by
  obtain ⟨hhalted, hstopped⟩ := hok.of_busy hbusy
  by_cases hhalt : i = .halt
  · subst hhalt
    cases h
    simp [runOk, hstopped]
  rcases exec_commandFrame hhalt h with ⟨e, rfl⟩ | hframe
  · simp [runOk, hhalted, hstopped]
  · exact hok.congr hframe.run

theorem engineStep_keeps_runOk {s t : State} (hok : runOk s) (hbusy : s.run.busy = true)
    (h : engineStep s = .next t) : runOk t := by
  obtain ⟨hhalted, hstopped⟩ := hok.of_busy hbusy
  rcases engineStep_cases s with ⟨-, hstep⟩ | ⟨e, hstep⟩ | ⟨i, hstep⟩ <;> rw [hstep] at h
  · cases h; simp [runOk, hhalted]
  · cases h; simp [runOk, hhalted, hstopped]
  · exact exec_keeps_runOk hok hbusy h

/-! ### The run state under the host (rules R24, R32) -/

/-- `CLRFAULT` leaves the other bits of the run state alone. -/
theorem clearFault_keeps_runOk (s : State) (h : runOk s) : runOk s.clearFault := by
  obtain ⟨hhalted, hstopped, hone, -, hreq⟩ := h
  exact ⟨hhalted, hstopped, hone, nofun, hreq⟩

theorem ctrlRefClear_keeps_runOk (s : State) (h : runOk s) : runOk s.ctrlRefClear := by
  unfold State.ctrlRefClear
  split <;> exact h

theorem ctrlFrameAbort_keeps_runOk (s : State) (h : runOk s) : runOk s.ctrlFrameAbort := by
  unfold State.ctrlFrameAbort
  split <;> exact h

/-- A stop is made pending only while the engine runs. -/
theorem ctrlStop_keeps_runOk (s : State) (h : runOk s) : runOk s.ctrlStop := by
  unfold State.ctrlStop
  split
  · next hbusy =>
    obtain ⟨hhalted, hstopped, hone, hfault, -⟩ := h
    exact ⟨hhalted, hstopped, hone, hfault, fun _ => hbusy⟩
  · exact h

/-- The engine starts only where no fault stands, and then it is neither halted nor stopped. -/
theorem ctrlGo_keeps_runOk (s : State) (h : runOk s) : runOk s.ctrlGo := by
  by_cases hgo : s.run.busy = false ∧ s.run.fault = false
  · rw [ctrlGo_accepted hgo.1 hgo.2]
    simp [runOk, hgo.2]
  · rw [ctrlGo_refused (by simpa [imp_iff_not_or] using hgo)]
    exact h

theorem writeCtrl_keeps_runOk (w : Word) {s : State} (h : runOk s) : runOk (writeCtrl s w) :=
  writeCtrl_keeps (fun _ _ => runOk_reset) clearFault_keeps_runOk ctrlRefClear_keeps_runOk ctrlFrameAbort_keeps_runOk
    ctrlStop_keeps_runOk ctrlGo_keeps_runOk w h

theorem hostStep_keeps_runOk {a : HostAccess} {s t : State} (hok : runOk s) (h : hostStep a s = .next t) :
    runOk t := by
  rcases hostStep_cases h with ⟨w, rfl⟩ | ⟨n, w, rfl⟩ | ⟨address, v, -, rfl⟩ | rfl
  · exact hok
  · rcases hostWriteReg_cases s n w with hw | hw | ⟨irq, hw⟩ | ⟨c, -, -, hw⟩ <;> rw [hw]
    · exact hok
    · exact writeCtrl_keeps_runOk w hok
    · exact hok
    · obtain ⟨-, hrun, -⟩ := csrStore_frame s c w
      exact hok.congr hrun
  · exact hok
  · exact runOk_reset

/-! ### The partial byte (rules R53, R250, R251) -/

/-- The unused low bits of the partial byte are 0, of the sink's registers alone. -/
def SinkRegs.padded (r : SinkRegs) : Prop := ∀ k : Nat, k < 8 - r.bitpos.toNat % 8 → r.acc.getLsbD k = false

theorem sinkOk_iff_padded (s : State) : sinkOk s ↔ s.sink.padded := Iff.rfl

/-- An empty partial byte has no bit set, whatever `BITPOS` is. -/
theorem SinkRegs.padded_of_acc_zero {r : SinkRegs} (h : r.acc = 0) : r.padded := fun k _ => by
  rw [h]; exact BitVec.getLsbD_zero

/-- One character fills the highest unused bit, and no lower one. -/
theorem appendBit_padded {k : SinkRegs × Memory} (c : Bool) (h : k.1.padded) : (appendBit k c).1.padded := by
  rcases appendBit_cases k c with ⟨hpos, -, hsink⟩ | ⟨-, hsink, -⟩ <;> rw [hsink]
  · intro i hi
    have hnext : (k.1.bitpos + 1).toNat % 8 = k.1.bitpos.toNat % 8 + 1 := by
      rw [BitVec.toNat_add]
      show (k.1.bitpos.toNat + 1) % 2 ^ 32 % 8 = _
      omega
    simp only [hnext] at hi
    have hold : k.1.acc.getLsbD i = false := h i (by omega)
    have hnew : (0x80#8 >>> (k.1.bitpos.toNat % 8)).getLsbD i = false := by
      rw [BitVec.getLsbD_ushiftRight, show (0x80#8 : Byte) = BitVec.twoPow 8 7 from rfl, BitVec.getLsbD_twoPow]
      simp; omega
    cases c
    · exact hold
    · show (k.1.acc ||| _).getLsbD i = false
      rw [BitVec.getLsbD_or, hold, hnew]; rfl
  · exact SinkRegs.padded_of_acc_zero rfl

theorem appendBits_padded {k : SinkRegs × Memory} (l : List Bool) (h : k.1.padded) : (appendBits k l).1.padded := by
  induction l generalizing k with
  | nil => exact h
  | cons c l ih => exact ih (appendBit_padded c h)

/-- A stored register value keeps them: a write of `BITPOS` clears `ACC` (rule R53). -/
theorem csrStore_keeps_sinkOk {s : State} (c : Csr) (v : Word) (h : sinkOk s) : sinkOk (csrStore s c v) := by
  cases c with
  | bitpos => exact SinkRegs.padded_of_acc_zero rfl
  | _ => exact h

theorem sinkOk.congr {s t : State} (h : sinkOk s) (hsink : t.sink = s.sink) : sinkOk t := by
  unfold sinkOk; rw [hsink]; exact h

theorem CommandFrame.keeps_sinkOk {s t : State} (hframe : CommandFrame s t) (h : sinkOk s) : sinkOk t := by
  rcases hframe.sink with ⟨l, hsink⟩ | ⟨c, v, hsink⟩
  · exact ((sinkOk_iff_padded (s.appended l)).mpr (appendBits_padded l h)).congr hsink
  · exact (csrStore_keeps_sinkOk c v h).congr hsink

/-! ### The levels (rules R63, R223, R226) -/

/-- The escalation ends with a pass that clamped or did not overflow. -/
theorem escalate_exhausted_or_fits (intra : Bool) (qm : List Nat) (blocks : List (Component × List Int))
    (d : DcPredictors) (n : Nat) :
    (escalate intra qm blocks d n).exhausted = true ∨ (escalate intra qm blocks d n).result.overflow = false := by
  induction n with
  | zero =>
    simp only [escalate]
    split
    · exact .inl rfl
    · next hover => exact .inr (Bool.eq_false_iff.mpr hover)
  | succ n ih =>
    simp only [escalate]
    split
    · exact ih
    · next hover => exact .inr (Bool.eq_false_iff.mpr hover)

/-- Every value a unit is coded with is representable. -/
theorem quantizeUnit_coded_bound (s : State) (mode : CodingMode) (pred : UnitSamples) :
    ∀ e ∈ (quantizeUnit s mode pred).result.coded, ∀ v ∈ e, v.natAbs ≤ 255 := by
  have hend := escalate_exhausted_or_fits (mode == .intra) (quantMatrix s) (unitCoefficients s pred) (dcPredictors s)
    (scaleMax - s.quant.qscale.toNat)
  unfold quantizeUnit
  rw [escalate_result] at hend ⊢
  exact quantPass_bound _ _ _ _ _ _ hend

/-- An entry of a list made a vector is the list's, or the padding. -/
theorem toVector_getElem {α : Type} (n : Nat) (pad : α) (l : List α) (i : Nat) (hi : i < n) :
    (toVector n pad l)[i] = l.getD i pad := by
  simp only [toVector, Vector.getElem_mk, List.getElem_toArray, List.getElem_take, List.getElem_append,
    List.getD_eq_getElem?_getD]
  split
  · next h => simp [h]
  · next h => simp [List.getElem?_eq_none (Nat.le_of_not_lt h)]

/-- A property of the padding and of every entry holds of the entry read, in range or not. -/
theorem getD_of_forall {α : Type} {p : α → Prop} {l : List α} {d : α} (hd : p d) (h : ∀ a ∈ l, p a) (i : Nat) :
    p (l.getD i d) := by
  rcases Nat.lt_or_ge i l.length with hi | hi
  · rw [List.getD_eq_getElem _ _ hi]; exact h _ (List.getElem_mem hi)
  · rw [List.getD_eq_default _ _ hi]; exact hd

/-- The stored levels are the coded values in scan order. -/
theorem levelStore_getElem (coded : List (List Int)) (k : Fin 6) (n : Fin 64) :
    (levelStore coded)[k][n] = (coded.getD k.val []).getD (zigzag.getD n.val 0) 0 := by
  have hrow : (levelStore coded)[k][n] =
      ((coded.map fun e => toVector 64 0 (scanOrder e)).getD k.val (Vector.replicate 64 0))[n] := by
    simp only [levelStore, Fin.getElem_fin, toVector_getElem]
  have hscan : ∀ e : List Int, (toVector 64 0 (scanOrder e))[n] = e.getD (zigzag.getD n.val 0) 0 := by
    intro e
    have hn : n.val < zigzag.length := n.isLt
    rw [Fin.getElem_fin, toVector_getElem _ _ _ _ n.isLt]
    simp [scanOrder, hn]
  rw [hrow]
  rcases Nat.lt_or_ge k.val coded.length with hk | hk
  · simpa [hk] using hscan coded[k.val]
  · simp [hk]

/-- Levels stored from representable values are representable. -/
theorem levelStore_bound {coded : List (List Int)} (h : ∀ e ∈ coded, ∀ v ∈ e, v.natAbs ≤ 255) (k : Fin 6) (n : Fin 64) :
    ((levelStore coded)[k][n]).natAbs ≤ 255 := by
  rw [levelStore_getElem]
  refine getD_of_forall (p := fun v : Int => v.natAbs ≤ 255) (by decide) ?_ _
  exact getD_of_forall (p := fun e : List Int => ∀ v ∈ e, v.natAbs ≤ 255) (by simp) h _

theorem tqmbResult_qc (s : State) (mode : CodingMode) :
    (tqmbResult s mode).qc =
      levelStore (quantizeUnit s mode (predictUnit s mode (unpack s.cur.pos))).result.coded := by
  unfold tqmbResult commitUnit
  dsimp only
  split <;> rfl

theorem levelsOk.congr {s t : State} (h : levelsOk s) (hqc : t.qc = s.qc) : levelsOk t := by
  unfold levelsOk; rw [hqc]; exact h

theorem CommandFrame.keeps_levelsOk {s t : State} (hframe : CommandFrame s t) (h : levelsOk s) : levelsOk t := by
  rcases hframe.levels with hqc | ⟨mode, hqc⟩
  · exact h.congr hqc
  · intro k n
    rw [hqc, tqmbResult_qc]
    exact levelStore_bound (quantizeUnit_coded_bound s mode _) k n

/-! ### Every step -/

/-- What depends on the sink's registers and the levels alone, and is kept by reset, by a stored register value and by
every completed command, is kept by every host access and every engine step. -/
theorem hostStep_keeps_data {P : State → Prop} (hcongr : ∀ s t, t.sink = s.sink → t.qc = s.qc → P s → P t)
    (hreset : ∀ s, P s → P s.resetEngine) (hstore : ∀ s c v, P s → P (csrStore s c v)) {a : HostAccess} {s t : State}
    (h : hostStep a s = .next t) (hs : P s) : P t := by
  have hctrl : ∀ w, P (writeCtrl s w) := fun w => by
    refine writeCtrl_keeps hreset (fun s => hcongr s _ rfl rfl) (fun s => ?_) (fun s => ?_) (fun s => ?_)
      (fun s => ?_) w hs
    · unfold State.ctrlRefClear; split <;> exact hcongr s _ rfl rfl
    · unfold State.ctrlFrameAbort; split <;> exact hcongr s _ rfl rfl
    · unfold State.ctrlStop; split <;> exact hcongr s _ rfl rfl
    · unfold State.ctrlGo; split <;> exact hcongr s _ rfl rfl
  rcases hostStep_cases h with ⟨w, rfl⟩ | ⟨n, w, rfl⟩ | ⟨address, v, -, rfl⟩ | rfl
  · exact hcongr s _ rfl rfl hs
  · rcases hostWriteReg_cases s n w with hw | hw | ⟨irq, hw⟩ | ⟨c, -, -, hw⟩ <;> rw [hw]
    · exact hcongr s _ rfl rfl hs
    · exact hctrl w
    · exact hcongr s _ rfl rfl hs
    · exact hstore s c w hs
  · exact hcongr s _ rfl rfl hs
  · exact hreset s hs

theorem engineStep_keeps_data {P : State → Prop} (hcongr : ∀ s t, t.sink = s.sink → t.qc = s.qc → P s → P t)
    (hcommand : ∀ s t, CommandFrame s t → P s → P t) {s t : State} (h : engineStep s = .next t) (hs : P s) : P t := by
  rcases engineStep_cases s with ⟨-, hstep⟩ | ⟨e, hstep⟩ | ⟨i, hstep⟩ <;> rw [hstep] at h
  · cases h; exact hcongr s _ rfl rfl hs
  · cases h; exact hcongr s _ rfl rfl hs
  · by_cases hhalt : i = .halt
    · subst hhalt; cases h; exact hcongr s _ rfl rfl hs
    · rcases exec_commandFrame hhalt h with ⟨e, rfl⟩ | hframe
      · exact hcongr s _ rfl rfl hs
      · exact hcommand s t hframe hs

theorem step_keeps_runOk {s t : State} (h : step s = .next t) (hok : runOk s) : runOk t :=
  step_keeps (fun _ _ hs => hs) (fun _ _ _ ha hs => hostStep_keeps_runOk hs ha)
    (fun _ _ hbusy he hs => engineStep_keeps_runOk hs hbusy he) h hok

theorem step_keeps_sinkOk {s t : State} (h : step s = .next t) (hok : sinkOk s) : sinkOk t := by
  have hcongr : ∀ s t : State, t.sink = s.sink → t.qc = s.qc → sinkOk s → sinkOk t :=
    fun _ _ hsink _ hs => hs.congr hsink
  exact step_keeps (fun _ _ hs => hs)
    (fun _ _ _ => hostStep_keeps_data hcongr (fun _ _ => sinkOk_reset) fun _ c v => csrStore_keeps_sinkOk c v)
    (fun _ _ _ => engineStep_keeps_data hcongr fun _ _ hframe => hframe.keeps_sinkOk) h hok

theorem step_keeps_levelsOk {s t : State} (h : step s = .next t) (hok : levelsOk s) : levelsOk t := by
  have hcongr : ∀ s t : State, t.sink = s.sink → t.qc = s.qc → levelsOk s → levelsOk t :=
    fun _ _ _ hqc hs => hs.congr hqc
  refine step_keeps (fun _ _ hs => hs) (fun _ _ _ => hostStep_keeps_data hcongr (fun _ _ => levelsOk_reset) ?_)
    (fun _ _ _ => engineStep_keeps_data hcongr fun _ _ hframe => hframe.keeps_levelsOk) h hok
  intro s c v hs
  obtain ⟨-, -, -, -, -, hqc, -⟩ := csrStore_frame s c v
  exact hs.congr hqc

/-- Settles O58: each of the three from itself alone, by whose turn it is. -/
theorem runSinkAndLevelsKept : Obligations.RunSinkAndLevelsKept := by
  unfold Obligations.RunSinkAndLevelsKept
  exact fun s t h => ⟨step_keeps_runOk h, step_keeps_sinkOk h, step_keeps_levelsOk h⟩

end Sys2Proof.Machine

/-! SUPPORT. Checks of conditions as the statements write them, and the faults of the execution cycle (rules R86, R116,
R140, R303). -/

namespace Sys2Proof.Machine

/-! ### A check of a condition that the statements write as `p` -/

section Checks

variable {α : Type} {b : Bool} {p : Prop} {t : Trap} {f : Unit → Except Trap α}

theorem require_of (hb : b = true ↔ p) (h : p) : require b t = .ok () := by
  rw [hb.mpr h, require_true]

theorem require_of_not (hb : b = true ↔ p) (h : ¬p) : require b t = .error t := by
  rw [Bool.eq_false_iff.mpr (mt hb.mp h), require_false]

theorem require_bind_of (hb : b = true ↔ p) (h : p) : (require b t >>= f) = f () := by
  rw [hb.mpr h, require_true_bind]

theorem require_bind_of_not (hb : b = true ↔ p) (h : ¬p) : (require b t >>= f) = .error t := by
  rw [Bool.eq_false_iff.mpr (mt hb.mp h), require_false_bind]

end Checks

/-! ### What the fetch refuses -/

theorem fetch_of_misaligned {s : State} (h : s.cp.toNat % 4 ≠ 0) :
    fetch s = .error ⟨.misalignedFetch, s.cp.toNat⟩ :=
  require_bind_of_not beq_iff_eq h

theorem fetch_of_absent {s : State} (halign : s.cp.toNat % 4 = 0) (h : s.memSize < s.cp.toNat + 4) :
    fetch s = .error ⟨.busFault, s.cp.toNat⟩ :=
  (require_bind_of beq_iff_eq halign).trans (require_bind_of_not decide_eq_true_iff (Nat.not_le_of_lt h))

/-- The four bytes at `CP` decode to no command where the word they make does not (rules R81a, R110). -/
theorem decode_fetchBytes_error {s : State} {e : DecodeError} (h : decodeWord (s.mem.readWord s.cp.toNat) = .error e) :
    decode (fetchBytes s) = .error e := by
  unfold Memory.readWord at h
  simp only [fetchBytes, decode, h]

theorem fetch_of_illegal {s : State} {e : DecodeError} (halign : s.cp.toNat % 4 = 0)
    (hmem : s.cp.toNat + 4 ≤ s.memSize) (h : decodeWord (s.mem.readWord s.cp.toNat) = .error e) :
    fetch s = .error ⟨.illegalCommand, (s.mem.readWord s.cp.toNat).toNat⟩ := by
  rw [fetch, require_bind_of beq_iff_eq halign, require_bind_of decide_eq_true_iff hmem, decode_fetchBytes_error h]

/-! ### The turn of a refused fetch -/

/-- With no stop pending, an engine step whose fetch faults takes that fault. -/
theorem engineStep_of_fetch_error {s : State} {e : Trap} (hstop : s.run.stopReq = false) (h : fetch s = .error e) :
    engineStep s = .next (s.takeFault e) := by
  simp [engineStep, hstop, h]

/-- The turn's own effect, on the host script, does not reach the fetch; it stays where the fault voids the command. -/
theorem step_of_fetch_error {s t : State} {e : Trap} (hturn : engineTurn s t) (hbusy : s.run.busy = true)
    (hstop : s.run.stopReq = false) (h : fetch s = .error e) :
    step s = .next (faulted t (faultNumber e.code).toNat e.info) := by
  have ht := engineTurn_eq hturn
  have hstop' : t.run.stopReq = false := by rw [ht]; exact hstop
  have hfetch : fetch t = .error e := by rw [ht]; exact h
  rw [step_of_engineTurn hturn hbusy, engineStep_of_fetch_error hstop' hfetch, takeFault_eq]

/-- Settles O6: each refusal of the fetch is the fault of the turn. -/
theorem fetchFaults : Obligations.FetchFaults := by
  unfold Obligations.FetchFaults
  intro s t hturn hbusy hstop
  refine ⟨fun h => ?_, fun halign h => ?_, fun e halign hmem h => ?_⟩
  · exact step_of_fetch_error hturn hbusy hstop (fetch_of_misaligned h)
  · exact step_of_fetch_error hturn hbusy hstop (fetch_of_absent halign h)
  · exact step_of_fetch_error hturn hbusy hstop (fetch_of_illegal halign hmem h)

end Sys2Proof.Machine

/-! SUPPORT. The bit sink as an append-only stream: a string is appended character by character, and one character is
followed through the byte it goes into (rules R81, R250, R251). -/

namespace Sys2Proof.Machine

/-! ### The byte a character goes into -/

/-- Byte `i` of the stream: stored, or the partial one (rule R250). -/
def streamByte (s : State) (i : Nat) : Byte :=
  if i < s.sink.bitpos.toNat / 8 then s.mem.read (s.sink.base.toNat + i) else s.sink.acc

theorem streamBit_eq (s : State) (t : Nat) : streamBit s t = (streamByte s (t / 8)).getLsbD (7 - t % 8) := rfl

/-- The partial byte with one more character (rule R251). -/
def filledByte (r : SinkRegs) (c : Bool) : Byte := if c then r.acc ||| (0x80#8 >>> (r.bitpos.toNat % 8)) else r.acc

/-- The character takes the highest unused bit, the others stay. -/
theorem filledByte_getLsbD {r : SinkRegs} (hr : r.padded) (c : Bool) {j : Nat} (hj : j < 8) :
    (filledByte r c).getLsbD j = if j = 7 - r.bitpos.toNat % 8 then c else r.acc.getLsbD j := by
  have hmask : (0x80#8 >>> (r.bitpos.toNat % 8)).getLsbD j = decide (j = 7 - r.bitpos.toNat % 8) := by
    rw [BitVec.getLsbD_ushiftRight, show (0x80#8 : Byte) = BitVec.twoPow 8 7 from rfl, BitVec.getLsbD_twoPow]
    simp only [Nat.reduceLT, decide_true, Bool.true_and]
    exact decide_eq_decide.mpr (by omega)
  have hunused : j = 7 - r.bitpos.toNat % 8 → r.acc.getLsbD j = false := fun h => hr j (by omega)
  cases c with
  | false =>
    show r.acc.getLsbD j = _
    split
    · exact hunused ‹_›
    · rfl
  | true =>
    show (r.acc ||| _).getLsbD j = _
    rw [BitVec.getLsbD_or, hmask]
    split <;> simp [*]

/-! ### One character -/

theorem appended_cons (s : State) (c : Bool) (l : List Bool) : s.appended (c :: l) = (s.appended [c]).appended l := rfl

@[simp] theorem appended_base (s : State) (l : List Bool) : (s.appended l).sink.base = s.sink.base :=
  appendBits_base ..

theorem sinkOk_appended {s : State} (l : List Bool) (h : sinkOk s) : sinkOk (s.appended l) := appendBits_padded l h

theorem appended_singleton_bitpos {s : State} (c : Bool) (hfit : s.sink.bitpos.toNat + 1 < 2 ^ 32) :
    (s.appended [c]).sink.bitpos.toNat = s.sink.bitpos.toNat + 1 := by
  show (appendBit (s.sink, s.mem) c).1.bitpos.toNat = _
  rw [appendBit_bitpos]
  exact BitVec.toNat_add_of_lt hfit

/-- Everything one character does to a sink that has room: the byte it fills stays partial, or is stored as the next
byte of the stream. -/
theorem appended_singleton_cases {s : State} (c : Bool) (hfit : s.sink.bitpos.toNat + 1 < 2 ^ 32) :
    (s.sink.bitpos.toNat % 8 ≠ 7 ∧ (s.appended [c]).mem = s.mem ∧
      (s.appended [c]).sink.acc = filledByte s.sink c) ∨
    (s.sink.bitpos.toNat % 8 = 7 ∧
      (s.appended [c]).mem = s.mem.write (s.sink.base.toNat + s.sink.bitpos.toNat / 8) (filledByte s.sink c)) := by
  rcases appendBit_cases (s.sink, s.mem) c with ⟨hpos, hmem, hsink⟩ | ⟨hpos, -, hmem⟩
  · exact .inl ⟨hpos, hmem, congrArg SinkRegs.acc hsink⟩
  · have hnext : (s.sink.bitpos + 1).toNat = s.sink.bitpos.toNat + 1 := BitVec.toNat_add_of_lt hfit
    have hplace : s.sink.base.toNat + (s.sink.bitpos + 1).toNat / 8 - 1 =
        s.sink.base.toNat + s.sink.bitpos.toNat / 8 := by
      have hpos : s.sink.bitpos.toNat % 8 = 7 := hpos
      omega
    exact .inr ⟨hpos, hmem.trans (congrArg (fun a => s.mem.write a (filledByte s.sink c)) hplace)⟩

/-- After one character, the byte it went into is the filled one and those before it are as they were. -/
theorem streamByte_appended_singleton {s : State} (c : Bool) (hfit : s.sink.bitpos.toNat + 1 < 2 ^ 32) {i : Nat}
    (hi : i ≤ s.sink.bitpos.toNat / 8) :
    streamByte (s.appended [c]) i = if i = s.sink.bitpos.toNat / 8 then filledByte s.sink c else streamByte s i := by
  unfold streamByte
  rw [appended_singleton_bitpos c hfit, appended_base]
  rcases appended_singleton_cases c hfit with ⟨hpos, hmem, hacc⟩ | ⟨hpos, hmem⟩
  · rw [hmem, hacc, show (s.sink.bitpos.toNat + 1) / 8 = s.sink.bitpos.toNat / 8 by omega]
    rcases Nat.lt_or_eq_of_le hi with h | h
    · rw [if_pos h, if_neg h.ne, if_pos h]
    · rw [if_neg (by omega), if_pos h]
  · rw [hmem, if_pos (by omega), Memory.read_write]
    rcases Nat.lt_or_eq_of_le hi with h | h
    · rw [if_neg (by omega), if_neg h.ne, if_pos h]
    · rw [if_pos (by omega), if_pos h]

/-- One character becomes the next bit of the stream, and the bits before it are as they were. -/
theorem streamBit_appended_singleton {s : State} (c : Bool) (hok : sinkOk s)
    (hfit : s.sink.bitpos.toNat + 1 < 2 ^ 32) {k : Nat} (hk : k ≤ s.sink.bitpos.toNat) :
    streamBit (s.appended [c]) k = if k = s.sink.bitpos.toNat then c else streamBit s k := by
  rw [streamBit_eq, streamByte_appended_singleton c hfit (Nat.div_le_div_right hk)]
  by_cases hbyte : k / 8 = s.sink.bitpos.toNat / 8
  · have hacc : streamByte s (k / 8) = s.sink.acc := if_neg (by omega)
    rw [if_pos hbyte, filledByte_getLsbD hok c (by omega), streamBit_eq, hacc]
    by_cases hlast : k = s.sink.bitpos.toNat
    · rw [if_pos (by omega), if_pos hlast]
    · rw [if_neg (by omega), if_neg hlast]
  · have hlast : k ≠ s.sink.bitpos.toNat := fun h => hbyte (by rw [h])
    rw [if_neg hbyte, if_neg hlast, streamBit_eq]

/-- One character writes no byte but the one it completes. -/
theorem mem_read_appended_singleton {s : State} (c : Bool) (hfit : s.sink.bitpos.toNat + 1 < 2 ^ 32) {a : Nat}
    (ha : a < s.sink.base.toNat + s.sink.bitpos.toNat / 8 ∨
      s.sink.base.toNat + (s.sink.bitpos.toNat + 1) / 8 ≤ a) : (s.appended [c]).mem.read a = s.mem.read a := by
  rcases appended_singleton_cases c hfit with ⟨-, hmem, -⟩ | ⟨hpos, hmem⟩
  · rw [hmem]
  · rw [hmem, Memory.read_write_other _ _ (by omega)]

/-! ### A string -/

theorem appended_bitpos {s : State} (l : List Bool) (hfit : s.sink.bitpos.toNat + l.length < 2 ^ 32) :
    (s.appended l).sink.bitpos.toNat = s.sink.bitpos.toNat + l.length := by
  induction l generalizing s with
  | nil => rfl
  | cons c l ih =>
    rw [List.length_cons] at hfit ⊢
    have hone := appended_singleton_bitpos c (s := s) (by omega)
    rw [appended_cons, ih (by omega), hone]
    omega

/-- A bit already in the stream keeps its value, whatever is appended. -/
theorem streamBit_appended_old {s : State} (l : List Bool) (hok : sinkOk s)
    (hfit : s.sink.bitpos.toNat + l.length < 2 ^ 32) {k : Nat} (hk : k < s.sink.bitpos.toNat) :
    streamBit (s.appended l) k = streamBit s k := by
  induction l generalizing s with
  | nil => rfl
  | cons c l ih =>
    rw [List.length_cons] at hfit
    have hone := appended_singleton_bitpos c (s := s) (by omega)
    rw [appended_cons, ih (sinkOk_appended _ hok) (by omega) (by omega),
      streamBit_appended_singleton c hok (by omega) hk.le, if_neg hk.ne]

/-- The characters of an appended string follow in their order. -/
theorem streamBit_appended_new {s : State} (l : List Bool) (hok : sinkOk s)
    (hfit : s.sink.bitpos.toNat + l.length < 2 ^ 32) {k : Nat} (hk : k < l.length) :
    streamBit (s.appended l) (s.sink.bitpos.toNat + k) = l.getD k false := by
  induction l generalizing s k with
  | nil => exact absurd hk (Nat.not_lt_zero k)
  | cons c l ih =>
    rw [List.length_cons] at hfit hk
    have hone := appended_singleton_bitpos c (s := s) (by omega)
    have hok' := sinkOk_appended [c] hok
    rw [appended_cons]
    cases k with
    | zero =>
      rw [Nat.add_zero, streamBit_appended_old l hok' (by omega) (by omega),
        streamBit_appended_singleton c hok (by omega) le_rfl, if_pos rfl, List.getD_cons_zero]
    | succ k =>
      have hplace : s.sink.bitpos.toNat + (k + 1) = (s.appended [c]).sink.bitpos.toNat + k := by omega
      rw [hplace, ih hok' (by omega) (by omega), List.getD_cons_succ]

/-- A string writes no byte but those it completes. -/
theorem mem_read_appended {s : State} (l : List Bool) (hfit : s.sink.bitpos.toNat + l.length < 2 ^ 32) {a : Nat}
    (ha : a < s.sink.base.toNat + s.sink.bitpos.toNat / 8 ∨
      s.sink.base.toNat + (s.sink.bitpos.toNat + l.length) / 8 ≤ a) : (s.appended l).mem.read a = s.mem.read a := by
  induction l generalizing s with
  | nil => rfl
  | cons c l ih =>
    rw [List.length_cons] at hfit ha
    have hone := appended_singleton_bitpos c (s := s) (by omega)
    rw [appended_cons, ih (by omega) (by rw [hone, appended_base]; omega),
      mem_read_appended_singleton c (by omega) (by omega)]

/-- Of the sink's registers an append reaches `BITPOS` and `ACC`, of the state only the sink and memory. -/
theorem appended_frame (s : State) (l : List Bool) :
    s.appended l =
      { s with
        sink := { s.sink with bitpos := (s.appended l).sink.bitpos, acc := (s.appended l).sink.acc }
        mem := (s.appended l).mem } := by
  have hbase : (s.appended l).sink.base = s.sink.base := appendBits_base ..
  have hlimit : (s.appended l).sink.limit = s.sink.limit := appendBits_limit ..
  simp only [← hbase, ← hlimit]
  rfl

/-- Settles O40: by induction on the string, one character at a time. -/
theorem sinkAppends : Obligations.SinkAppends := by
  unfold Obligations.SinkAppends
  intro s bits hok hfit t
  exact ⟨appended_bitpos bits hfit, fun _ => streamBit_appended_old bits hok hfit,
    fun _ => streamBit_appended_new bits hok hfit, sinkOk_appended bits hok, fun _ => mem_read_appended bits hfit,
    appended_frame s bits⟩

end Sys2Proof.Machine

/-! SUPPORT. The checks of `TQMB` one by one, and the fault of the first that fails (rule R233 steps 1 to 7). -/

namespace Sys2Proof.Machine

/-! ### Each check as the statements write it -/

theorem tqmbReady_iff (s : State) :
    (inFrame s && !s.frame.uphase && s.cur.valid) = true ↔ coding s ∧ s.frame.uphase = false ∧ s.cur.valid = true := by
  rw [Bool.and_eq_true, Bool.and_eq_true, Bool.not_eq_true', inFrame_iff, and_assoc]

/-- The vector of a direction is checked only where the mode uses the direction. -/
theorem tqmbVector_iff (s : State) (mode : CodingMode) (dir : Dir) (o mv : Vec) :
    (!modeUses mode dir || isCandidate s o mv) = true ↔
      (modeUses mode dir = true → legalCandidate s o.x o.y mv.x mv.y) := by
  rw [Bool.or_eq_true, Bool.not_eq_true', ← Bool.not_eq_true, ← imp_iff_not_or, isCandidate_iff]

/-! ### What a failing check does -/

theorem exec_tqmb_of_check_error {s : State} {mode : CodingMode} {e : Trap} (h : checkTqmb s mode = .error e) :
    exec (.tqmb mode) s = .next (faulted s (faultNumber e.code).toNat e.info) := by
  show execTqmb mode s = _
  rw [execTqmb, h, ← takeFault_eq]
  rfl

theorem exec_tqmb_of_lowestMissing {s : State} {mode : CodingMode} {a : Nat} (hcheck : checkTqmb s mode = .ok ())
    (h : lowestMissing s.memSize (tqmbTouches s mode) a) : exec (.tqmb mode) s = .next (faulted s 3 a) := by
  have hmem : requireInMemory s (tqmbSpans s mode) = .error ⟨.busFault, a⟩ :=
    requireInMemory_of_lowestMissing s _ a (by simpa only [mem_tqmbSpans_iff] using h)
  show execTqmb mode s = _
  rw [execTqmb, hcheck, hmem]
  exact congrArg Host.Outcome.next (takeFault_eq s _)

/-- Settles O39: the checks before the failing one pass, so its trap is the command's fault. -/
theorem transformUnitFaults : Obligations.TransformUnitFaults := by
  unfold Obligations.TransformUnitFaults
  intro mode s pos usesF usesB ready allowed scaled next vecF vecB fails
  have ready_iff : _ ↔ ready := tqmbReady_iff s
  have allowed_iff : _ ↔ allowed := modeAllowed_iff s mode
  have scaled_iff : (s.quant.qscale != 0) = true ↔ scaled := bne_iff_ne
  have next_iff : (s.cur.pos == nextUnitPos s) = true ↔ next := beq_iff_eq
  have vecF_iff : _ ↔ vecF :=
    (tqmbVector_iff s mode .forward pos (forwardVector s)).trans (imp_congr_left (modeUses_forward_iff mode))
  have vecB_iff : _ ↔ vecB :=
    (tqmbVector_iff s mode .backward pos (backwardVector s)).trans (imp_congr_left (modeUses_backward_iff mode))
  -- what is left to check after each of the first five
  have after1 : ready → checkTqmb s mode = _ := require_bind_of ready_iff
  have after2 := fun h1 h2 => (after1 h1).trans (require_bind_of allowed_iff h2)
  have after3 := fun h1 h2 h3 => (after2 h1 h2).trans (require_bind_of scaled_iff h3)
  have after4 := fun h1 h2 h3 h4 => (after3 h1 h2 h3).trans (require_bind_of next_iff h4)
  have after5 := fun h1 h2 h3 h4 h5 => (after4 h1 h2 h3 h4).trans (require_bind_of vecF_iff h5)
  refine ⟨fun hnot => ?_, fun h1 hnot => ?_, fun h1 h2 hnot => ?_, fun h1 h2 h3 hnot => ?_,
    fun h1 h2 h3 h4 hnot => ?_, fun h1 h2 h3 h4 h5 hnot => ?_, fun a h1 h2 h3 h4 h5 h6 hmissing => ?_⟩
  · rw [← stateDetail_eq]
    exact exec_tqmb_of_check_error (require_bind_of_not ready_iff hnot)
  · have hfault := exec_tqmb_of_check_error ((after1 h1).trans (require_bind_of_not allowed_iff hnot))
    cases mode <;> exact hfault
  · exact exec_tqmb_of_check_error ((after2 h1 h2).trans (require_bind_of_not scaled_iff hnot))
  · exact exec_tqmb_of_check_error ((after3 h1 h2 h3).trans (require_bind_of_not next_iff hnot))
  · exact exec_tqmb_of_check_error ((after4 h1 h2 h3 h4).trans (require_bind_of_not vecF_iff hnot))
  · exact exec_tqmb_of_check_error ((after5 h1 h2 h3 h4 h5).trans (require_of_not vecB_iff hnot))
  · exact exec_tqmb_of_lowestMissing ((after5 h1 h2 h3 h4 h5).trans (require_of vecB_iff h6)) hmissing

end Sys2Proof.Machine

/-! SUPPORT. Command words field by field: what a row of the opcode map asks of each field, what the operands of a
command fix of each field, and that the decoder and the encoder agree on both (rules R110 to R117). -/

namespace Sys2Proof.Machine

/-! ### Field values (rule R115) -/

theorem regOf_eq_iff (b : BitVec 4) (r : Reg) : regOf b = r ↔ b = regBits r := by
  constructor <;> rintro rfl <;> simp

theorem metricOfBit_eq_iff (b : Bool) (met : MetricKind) : metricOfBit b = met ↔ b = metricBit met := by
  revert b; cases met <;> decide

theorem dirOfBit_eq_iff (b : Bool) (dir : Dir) : dirOfBit b = dir ↔ b = dirBit dir := by
  revert b; cases dir <;> decide

theorem modeOfCode_eq_iff (c : BitVec 2) (mode : CodingMode) : modeOfCode c = mode ↔ c = modeCode mode := by
  revert c; cases mode <;> decide

theorem condOfCode_eq_some_iff (b : BitVec 4) (c : Cond) : condOfCode b = some c ↔ b = condCode c := by
  revert b; cases c <;> decide

theorem searchDirOfCode_eq_some_iff (b : BitVec 2) (d : SearchDir) :
    searchDirOfCode b = some d ↔ b = searchDirCode d := by
  revert b; cases d <;> decide

theorem frameTypeOfCode_eq_some_iff (b : BitVec 2) (t : FrameType) :
    frameTypeOfCode b = some t ↔ b = frameTypeCode t := by
  revert b; cases t <;> decide

/-! Which numbers name a value, as rule R117 writes it. -/

theorem condOfCode_isSome_iff : ∀ b : BitVec 4, (condOfCode b).isSome ↔ b.toNat ≤ 10 := by decide

theorem searchDirOfCode_isSome_iff : ∀ b : BitVec 2, (searchDirOfCode b).isSome ↔ b.toNat ≠ 3 := by decide

theorem frameTypeOfCode_isSome_iff : ∀ b : BitVec 2, (frameTypeOfCode b).isSome ↔ b.toNat ≠ 3 := by decide

/-! ### A word given by its fields (rule R111) -/

section Formats

variable (w v : Word) (op : BitVec 6) (rd ra rb : BitVec 4) (m : BitVec 14) (imm : BitVec 16) (off : BitVec 22)

theorem formatR_eq_iff : formatR op rd ra rb m = w ↔
    opField w = op ∧ rdField w = rd ∧ raField w = ra ∧ rbField w = rb ∧ mField w = m := by
  constructor
  · rintro rfl; simp
  · rintro ⟨rfl, rfl, rfl, rfl, rfl⟩; exact word_eq_formatR w

theorem formatI_eq_iff : formatI op rd ra imm = w ↔
    opField w = op ∧ rdField w = rd ∧ raField w = ra ∧ zField w = 0 ∧ immField w = imm := by
  constructor
  · rintro rfl; simp
  · rintro ⟨rfl, rfl, rfl, hz, rfl⟩; exact word_eq_formatI w hz

theorem formatB_eq_iff : formatB op rd off = w ↔ opField w = op ∧ rdField w = rd ∧ offField w = off := by
  constructor
  · rintro rfl; simp
  · rintro ⟨rfl, rfl, rfl⟩; exact word_eq_formatB w

theorem formatN_eq_iff : formatN op = w ↔ opField w = op ∧ restField w = 0 := by
  constructor
  · rintro rfl; simp
  · rintro ⟨rfl, hz⟩; exact word_eq_formatN w hz

@[simp] theorem opField_and : opField (w &&& v) = opField w &&& opField v := BitVec.extractLsb'_and
@[simp] theorem rdField_and : rdField (w &&& v) = rdField w &&& rdField v := BitVec.extractLsb'_and
@[simp] theorem raField_and : raField (w &&& v) = raField w &&& raField v := BitVec.extractLsb'_and
@[simp] theorem rbField_and : rbField (w &&& v) = rbField w &&& rbField v := BitVec.extractLsb'_and
@[simp] theorem mField_and : mField (w &&& v) = mField w &&& mField v := BitVec.extractLsb'_and

end Formats

/-! ### Fields of other formats inside those of format R (rule R111) -/

/-- The bits that must be 0 in format N are the four fields below the opcode. -/
theorem restField_eq_zero_iff (w : Word) :
    restField w = 0#26 ↔ rdField w = 0#4 ∧ raField w = 0#4 ∧ rbField w = 0#4 ∧ mField w = 0#14 := by
  have hformat : ∀ op, formatN op = formatR op 0 0 0 0 := by decide
  calc restField w = 0#26
    _ ↔ formatN (opField w) = w := by simp [formatN_eq_iff]
    _ ↔ rdField w = 0#4 ∧ raField w = 0#4 ∧ rbField w = 0#4 ∧ mField w = 0#14 := by simp [hformat, formatR_eq_iff]

/-- The bits that must be 0 in format I are the upper two of where format R has `rb`. -/
theorem zField_eq_zero_iff (w : Word) : zField w = 0#2 ↔ rbField w &&& 12#4 = 0#4 := by
  have hupper : ∀ b : BitVec 4, b.extractLsb' 2 2 = 0#2 ↔ b &&& 12#4 = 0#4 := by decide
  have hz : zField w = (rbField w).extractLsb' 2 2 := by
    apply BitVec.eq_of_getLsbD_eq
    intro k hk
    simp only [zField, rbField, BitVec.getLsbD_extractLsb', hk, decide_true, Bool.true_and]
    rw [decide_eq_true (by omega), Bool.true_and]
    congr 1; omega
  rw [hz, hupper]

/-- The low bits of the mode field are those of the word. -/
theorem extractLsb'_mField (w : Word) {n : Nat} (h : n ≤ 14) : (mField w).extractLsb' 0 n = w.extractLsb' 0 n :=
  BitVec.extractLsb'_extractLsb'_of_le (by omega)

/-! ### The mode field (rule R115) -/

/-- Where a mask that covers the bits from `k` up finds 0, the field is its `k` low bits. -/
theorem exists_setWidth_of_and {m mask : BitVec 14} {k : Nat}
    (hmask : mask &&& BitVec.allOnes 14 <<< k = BitVec.allOnes 14 <<< k) (h : m &&& mask = 0) :
    ∃ low : BitVec k, m = low.setWidth 14 := by
  have hhigh : m &&& BitVec.allOnes 14 <<< k = 0#14 := by
    rw [← hmask, ← BitVec.and_assoc, h]
    exact BitVec.zero_and
  refine ⟨m.extractLsb' 0 k, BitVec.eq_of_getLsbD_eq fun j hj => ?_⟩
  have hbit := congrArg (BitVec.getLsbD · j) hhigh
  rw [BitVec.getLsbD_and, BitVec.getLsbD_shiftLeft, BitVec.getLsbD_allOnes, BitVec.getLsbD_zero] at hbit
  rw [BitVec.getLsbD_setWidth, BitVec.getLsbD_extractLsb']
  by_cases hjk : j < k
  · simp [hj, hjk]
  · simpa [hj, hjk, show j - k < 14 by omega] using hbit

/-- Where a mask that covers bits 13:3 finds 0, the field is a metric bit and a two-bit number. -/
theorem exists_modeField_of_and {m mask : BitVec 14} (hmask : mask &&& 0x3FF8 = 0x3FF8) (h : m &&& mask = 0) :
    ∃ met low, m = modeField met low := by
  obtain ⟨low, rfl⟩ := exists_setWidth_of_and (k := 3) hmask h
  refine ⟨low.getLsbD 2, low.extractLsb' 0 2, ?_⟩
  clear h; revert low; decide

theorem eq_modeField_iff (m : BitVec 14) (met : Bool) (low : BitVec 2) :
    m = modeField met low ↔ m &&& 0x3FF8#14 = 0#14 ∧ m.getLsbD 2 = met ∧ m.extractLsb' 0 2 = low := by
  constructor
  · rintro rfl; revert met low; decide
  · rintro ⟨hz, rfl, rfl⟩
    obtain ⟨met, low, rfl⟩ := exists_modeField_of_and (by decide) hz
    clear hz; revert met low; decide

/-- The mode field of `METRIC`: the low number is the direction. -/
theorem eq_modeField_dir_iff (m : BitVec 14) (met dir : Bool) :
    m = modeField met (0#1 ++ BitVec.ofBool dir) ↔ m &&& 0x3FFA#14 = 0#14 ∧ m.getLsbD 2 = met ∧ m.getLsbD 0 = dir := by
  constructor
  · rintro rfl; revert met dir; decide
  · rintro ⟨hz, rfl, rfl⟩
    obtain ⟨met, low, rfl⟩ := exists_modeField_of_and (by decide) hz
    revert met low; decide

/-- The mode field of `ACT`: a metric alone. -/
theorem eq_modeField_metric_iff (m : BitVec 14) (met : Bool) :
    m = modeField met 0#2 ↔ m &&& 0x3FFB#14 = 0#14 ∧ m.getLsbD 2 = met := by
  constructor
  · rintro rfl; revert met; decide
  · rintro ⟨hz, rfl⟩
    obtain ⟨met, low, rfl⟩ := exists_modeField_of_and (by decide) hz
    revert met low; decide

/-- The mode field of `TQMB` and `FRMBEG`: a two-bit number alone. -/
theorem eq_modeField_number_iff (m : BitVec 14) (low : BitVec 2) :
    m = modeField false low ↔ m &&& 0x3FFC#14 = 0#14 ∧ m.extractLsb' 0 2 = low := by
  constructor
  · rintro rfl; revert low; decide
  · rintro ⟨hz, rfl⟩
    obtain ⟨met, low, rfl⟩ := exists_modeField_of_and (by decide) hz
    revert met low; decide

/-- The mode field of `FRMNEXT`: one bit alone. -/
theorem eq_modeField_bit_iff (m : BitVec 14) (keep : Bool) :
    m = modeField false (0#1 ++ BitVec.ofBool keep) ↔ m &&& 0x3FFE#14 = 0#14 ∧ m.getLsbD 0 = keep := by
  constructor
  · rintro rfl; revert keep; decide
  · rintro ⟨hz, rfl⟩
    obtain ⟨met, low, rfl⟩ := exists_modeField_of_and (by decide) hz
    revert met low; decide

/-- The mode field of `PUTB`: a six-bit count. -/
theorem eq_count_iff (m : BitVec 14) (n : BitVec 6) :
    m = 0#8 ++ n ↔ m &&& 0x3FC0#14 = 0#14 ∧ m.extractLsb' 0 6 = n := by
  constructor
  · rintro rfl; revert n; decide
  · rintro ⟨hz, rfl⟩
    obtain ⟨n, rfl⟩ := exists_setWidth_of_and (k := 6) (by decide) hz
    clear hz; revert n; decide

/-! ### Rows and operands by field (rules R111, R113 to R116) -/

/-- The opcode of a command's row. -/
@[simp] def rowOpcode : Instr → BitVec 6
  | .halt => 0x01 | .br _ _ => 0x02 | .nop => 0x03 | .addi _ _ _ => 0x04 | .ori _ _ _ => 0x05 | .lui _ _ => 0x06
  | .add _ _ _ => 0x08 | .sub _ _ _ => 0x09 | .cmp _ _ => 0x0A | .ldw _ _ _ => 0x0C | .stw _ _ _ => 0x0D
  | .rdcsr _ _ => 0x0E | .wrcsr _ _ => 0x0F | .ldcur _ => 0x10 | .metric _ _ _ _ _ => 0x11 | .act _ _ => 0x12
  | .msrch _ _ _ _ => 0x14 | .mdec _ => 0x15 | .tqmb _ => 0x18 | .ecmb => 0x1C | .putb _ _ => 0x1D | .align => 0x1E
  | .flush => 0x1F | .frmbeg _ => 0x20 | .frmend => 0x21 | .frmnext _ => 0x22

/-- The must-be-zero positions of each row, cut into the fields of format R whatever the row's own format. -/
structure ZeroMasks where
  rd : BitVec 4
  ra : BitVec 4
  rb : BitVec 4
  m : BitVec 14

/-- The must-be-zero positions of a command's row (rules R113, R116). -/
@[simp] def zeroMasks : Instr → ZeroMasks
  | .br _ _ => ⟨0, 0, 0, 0⟩
  | .halt | .nop | .ecmb | .align | .flush | .frmend => ⟨0xF, 0xF, 0xF, 0x3FFF⟩
  | .addi _ _ _ | .ori _ _ _ | .ldw _ _ _ | .stw _ _ _ => ⟨0, 0, 0xC, 0⟩
  | .lui _ _ | .rdcsr _ _ => ⟨0, 0xF, 0xC, 0⟩
  | .wrcsr _ _ => ⟨0xF, 0, 0xC, 0⟩
  | .add _ _ _ | .sub _ _ _ => ⟨0, 0, 0, 0x3FFF⟩
  | .cmp _ _ => ⟨0xF, 0, 0, 0x3FFF⟩
  | .ldcur _ => ⟨0xF, 0, 0xF, 0x3FFF⟩
  | .metric _ _ _ _ _ => ⟨0, 0, 0, 0x3FFA⟩
  | .act _ _ => ⟨0, 0xF, 0xF, 0x3FFB⟩
  | .msrch _ _ _ _ => ⟨0, 0, 0xF, 0x3FF8⟩
  | .mdec _ => ⟨0, 0xF, 0xF, 0x3FFF⟩
  | .tqmb _ | .frmbeg _ => ⟨0xF, 0xF, 0xF, 0x3FFC⟩
  | .putb _ _ => ⟨0xF, 0, 0xF, 0x3FC0⟩
  | .frmnext _ => ⟨0xF, 0xF, 0xF, 0x3FFE⟩

/-- The word has the opcode of the command's row and 0 in the row's must-be-zero positions. -/
def matchesRow (i : Instr) (w : Word) : Prop :=
  opField w = rowOpcode i ∧ rdField w &&& (zeroMasks i).rd = 0 ∧ raField w &&& (zeroMasks i).ra = 0 ∧
  rbField w &&& (zeroMasks i).rb = 0 ∧ mField w &&& (zeroMasks i).m = 0

/-- The operand fields of the word hold the command's operands (rules R113, R115). -/
@[simp] def operandsIn (w : Word) : Instr → Prop
  | .halt | .nop | .ecmb | .align | .flush | .frmend => True
  | .br c off => rdField w = condCode c ∧ offField w = off
  | .addi rd ra imm | .ori rd ra imm | .ldw rd ra imm | .stw rd ra imm =>
    rdField w = regBits rd ∧ raField w = regBits ra ∧ immField w = imm
  | .lui rd imm | .rdcsr rd imm => rdField w = regBits rd ∧ immField w = imm
  | .wrcsr imm ra => immField w = imm ∧ raField w = regBits ra
  | .add rd ra rb | .sub rd ra rb => rdField w = regBits rd ∧ raField w = regBits ra ∧ rbField w = regBits rb
  | .cmp ra rb => raField w = regBits ra ∧ rbField w = regBits rb
  | .ldcur ra => raField w = regBits ra
  | .metric met dir rd ra rb => (mField w).getLsbD 2 = metricBit met ∧ (mField w).getLsbD 0 = dirBit dir ∧
    rdField w = regBits rd ∧ raField w = regBits ra ∧ rbField w = regBits rb
  | .act met rd => (mField w).getLsbD 2 = metricBit met ∧ rdField w = regBits rd
  | .msrch met dir rd ra => (mField w).getLsbD 2 = metricBit met ∧ (mField w).extractLsb' 0 2 = searchDirCode dir ∧
    rdField w = regBits rd ∧ raField w = regBits ra
  | .mdec rd => rdField w = regBits rd
  | .tqmb mode => (mField w).extractLsb' 0 2 = modeCode mode
  | .putb ra n => raField w = regBits ra ∧ (mField w).extractLsb' 0 6 = n
  | .frmbeg t => (mField w).extractLsb' 0 2 = frameTypeCode t
  | .frmnext keep => (mField w).getLsbD 0 = keep

/-! ### The opcode map (rule R114) -/

/-- The `match` of a row is its opcode alone. -/
theorem opcodeRow_fixed (i : Instr) : (opcodeRow i).fixed = formatR (rowOpcode i) 0 0 0 0 := by
  cases i <;> simp only [opcodeRow, rowOpcode] <;> decide

/-- The mask of a row is the whole opcode and the must-be-zero positions. -/
theorem opcodeRow_mask (i : Instr) : (opcodeRow i).mask =
    formatR 0x3F (zeroMasks i).rd (zeroMasks i).ra (zeroMasks i).rb (zeroMasks i).m := by
  cases i <;> simp only [opcodeRow, zeroMasks] <;> decide

@[simp] theorem and_ones_four (b : BitVec 4) : b &&& 15#4 = b := BitVec.and_allOnes
@[simp] theorem and_ones_six (b : BitVec 6) : b &&& 63#6 = b := BitVec.and_allOnes
@[simp] theorem and_ones_fourteen (b : BitVec 14) : b &&& 16383#14 = b := BitVec.and_allOnes

/-- The rows of the opcode map are those of `matchesRow`. -/
theorem and_mask_eq_fixed_iff (i : Instr) (w : Word) :
    w &&& (opcodeRow i).mask = (opcodeRow i).fixed ↔ matchesRow i w := by
  rw [eq_comm, opcodeRow_fixed, opcodeRow_mask, formatR_eq_iff]
  simp [matchesRow]

/-! ### The encoder field by field -/

/-- A word is a command's word when it is of the command's row and holds its operands: what is neither must-be-zero
nor operand does not exist. -/
theorem encode_eq_iff (i : Instr) (w : Word) : encode i = w ↔ matchesRow i w ∧ operandsIn w i := by
  cases i with
  | halt | nop | ecmb | align | flush | frmend => simp [encode, matchesRow, formatN_eq_iff, restField_eq_zero_iff]
  | br c off => simp [encode, matchesRow, formatB_eq_iff]
  | addi rd ra imm | ori rd ra imm | ldw rd ra imm | stw rd ra imm | lui rd imm | rdcsr rd imm | wrcsr imm ra =>
    simp [encode, matchesRow, formatI_eq_iff, zField_eq_zero_iff]
    tauto
  | add rd ra rb | sub rd ra rb | cmp ra rb | ldcur ra | mdec rd =>
    simp [encode, matchesRow, formatR_eq_iff]
    tauto
  | metric met dir rd ra rb =>
    simp [encode, matchesRow, formatR_eq_iff, eq_modeField_dir_iff]
    tauto
  | act met rd =>
    simp [encode, matchesRow, formatR_eq_iff, eq_modeField_metric_iff]
    tauto
  | msrch met dir rd ra =>
    simp [encode, matchesRow, formatR_eq_iff, eq_modeField_iff]
    tauto
  | tqmb mode | frmbeg t =>
    simp [encode, matchesRow, formatR_eq_iff, eq_modeField_number_iff]
    tauto
  | putb ra n =>
    simp [encode, matchesRow, formatR_eq_iff, eq_count_iff]
    tauto
  | frmnext keep =>
    simp [encode, matchesRow, formatR_eq_iff, eq_modeField_bit_iff]
    tauto

/-! ### The decoder field by field -/

/-- A word decodes only to a command of the row its opcode selects. -/
theorem opField_of_decodeWord {w : Word} {i : Instr} (h : decodeWord w = .ok i) : opField w = rowOpcode i := by
  unfold decodeWord at h
  dsimp only at h
  split at h
  -- the rows with a value check: `BR`, `MSRCH`, `PUTB`, `FRMBEG`
  case h_2 hop | h_17 hop | h_21 hop | h_24 hop =>
    split at h <;> cases h
    exact BitVec.eq_of_toNat_eq hop
  -- no row
  case h_27 => cases h
  all_goals
    rename_i hop
    obtain ⟨-, rfl⟩ := (ifZero_ok _ _ _).mp h
    exact BitVec.eq_of_toNat_eq hop

/-- A word decodes to a command when it is of the command's row and holds its operands, and the command is legal. -/
theorem decodeWord_ok_iff (i : Instr) (w : Word) :
    decodeWord w = .ok i ↔ matchesRow i w ∧ operandsIn w i ∧ i.wellFormed = true := by
  by_cases hop : opField w = rowOpcode i
  case neg =>
    constructor
    · exact fun h => absurd (opField_of_decodeWord h) hop
    · exact fun h => absurd h.1.1 hop
  cases i with
  | halt | nop | ecmb | align | flush | frmend =>
    simp [decodeWord, ifZero_ok, matchesRow, hop, restField_eq_zero_iff, Instr.wellFormed]
  | br c off =>
    simp [decodeWord, matchesRow, hop, Instr.wellFormed, ← condOfCode_eq_some_iff]
    split <;> simp_all
  | addi rd ra imm | ori rd ra imm | ldw rd ra imm | stw rd ra imm =>
    simp [decodeWord, ifZero_ok, matchesRow, hop, zField_eq_zero_iff, Instr.wellFormed, regOf_eq_iff]
  | lui rd imm | rdcsr rd imm | wrcsr imm ra =>
    simp [decodeWord, ifZero_ok, and_assoc, matchesRow, hop, zField_eq_zero_iff, Instr.wellFormed, regOf_eq_iff]
    exact and_left_comm
  | add rd ra rb | sub rd ra rb | cmp ra rb | ldcur ra | mdec rd =>
    simp [decodeWord, ifZero_ok, and_assoc, matchesRow, hop, Instr.wellFormed, regOf_eq_iff]
  | metric met dir rd ra rb =>
    simp [decodeWord, ifZero_ok, matchesRow, hop, Instr.wellFormed, regOf_eq_iff, metricOfBit_eq_iff, dirOfBit_eq_iff]
  | act met rd =>
    simp [decodeWord, ifZero_ok, and_assoc, matchesRow, hop, Instr.wellFormed, regOf_eq_iff, metricOfBit_eq_iff]
  | msrch met dir rd ra =>
    simp [decodeWord, matchesRow, hop, Instr.wellFormed, ← searchDirOfCode_eq_some_iff, ← metricOfBit_eq_iff,
      ← regOf_eq_iff]
    split <;> simp_all
  | tqmb mode =>
    simp [decodeWord, ifZero_ok, and_assoc, matchesRow, hop, Instr.wellFormed, modeOfCode_eq_iff]
  | putb ra n =>
    simp [decodeWord, matchesRow, hop, Instr.wellFormed, ← regOf_eq_iff, -BitVec.extractLsb'_toNat]
    split <;> simp_all [-BitVec.extractLsb'_toNat]
    all_goals
      rintro - rfl
      assumption
  | frmbeg t =>
    simp [decodeWord, matchesRow, hop, Instr.wellFormed, ← frameTypeOfCode_eq_some_iff]
    split <;> simp_all
  | frmnext keep =>
    simp [decodeWord, ifZero_ok, and_assoc, matchesRow, hop, Instr.wellFormed]

/-! ### The decoder and the encoder -/

/-- Every command has one word, and the decoder accepts it where the command is legal. -/
theorem decodeWord_ok_iff_encode (i : Instr) (w : Word) :
    decodeWord w = .ok i ↔ encode i = w ∧ i.wellFormed = true := by
  rw [decodeWord_ok_iff, encode_eq_iff, and_assoc]

/-- Settles O1: the decoder accepts the word of a legal command, and four bytes in little-endian order are the word. -/
theorem decodeEncode : Obligations.DecodeEncode := by
  unfold Obligations.DecodeEncode
  intro i rest hwf
  have hword : decodeWord (encode i) = .ok i := (decodeWord_ok_iff_encode i _).mpr ⟨rfl, hwf⟩
  refine ⟨hword, ?_⟩
  rw [decode_bytesOfWord, hword]
  rfl

/-- Settles O2: the other direction of the same equivalence. -/
theorem decodeStrict : Obligations.DecodeStrict := by
  unfold Obligations.DecodeStrict
  exact fun w i h => (decodeWord_ok_iff_encode i w).mp h

/-! ### The value checks (rule R117) -/

/-- The values of a word that decodes are legal: each comes from an operand that exists. -/
theorem valuesLegal_of_decodeWord {w : Word} {i : Instr} (h : decodeWord w = .ok i) : valuesLegal w := by
  obtain ⟨⟨hop, -⟩, hoperands, hwf⟩ := (decodeWord_ok_iff i w).mp h
  cases i with
  | br c off =>
    have hcond := condOfCode_isSome_iff (rdField w)
    rw [(condOfCode_eq_some_iff _ c).mpr hoperands.1] at hcond
    simp [valuesLegal, hop, hcond.mp rfl]
  | msrch met dir rd ra =>
    obtain ⟨-, hdir, -⟩ := hoperands
    have hlegal := searchDirOfCode_isSome_iff ((mField w).extractLsb' 0 2)
    rw [(searchDirOfCode_eq_some_iff _ dir).mpr hdir, extractLsb'_mField w (by omega)] at hlegal
    simpa [valuesLegal, hop] using hlegal
  | frmbeg t =>
    have hlegal := frameTypeOfCode_isSome_iff ((mField w).extractLsb' 0 2)
    rw [(frameTypeOfCode_eq_some_iff _ t).mpr hoperands, extractLsb'_mField w (by omega)] at hlegal
    simpa [valuesLegal, hop] using hlegal
  | putb ra n =>
    obtain ⟨-, rfl⟩ := hoperands
    rw [extractLsb'_mField w (by omega)] at hwf
    simpa [valuesLegal, hop, Instr.wellFormed] using hwf
  | _ => simp [valuesLegal, hop]

/-- A word of a row whose values are legal holds the operands of some legal command of that row. -/
theorem exists_operandsIn {w : Word} {i : Instr} (hrow : matchesRow i w) (hlegal : valuesLegal w) :
    ∃ j, matchesRow j w ∧ operandsIn w j ∧ j.wellFormed = true := by
  obtain ⟨hbr, hmsrch, hfrmbeg, hputb⟩ := hlegal
  have hop := hrow.1
  cases i with
  | halt | nop | ecmb | align | flush | frmend => exact ⟨_, hrow, trivial, rfl⟩
  | br c off =>
    obtain ⟨c', hc'⟩ := Option.isSome_iff_exists.mp ((condOfCode_isSome_iff _).mpr (hbr hop))
    exact ⟨.br c' (offField w), hrow, ⟨(condOfCode_eq_some_iff _ _).mp hc', rfl⟩, rfl⟩
  | addi rd ra imm =>
    exact ⟨.addi (regOf (rdField w)) (regOf (raField w)) (immField w), hrow, by simp, rfl⟩
  | ori rd ra imm =>
    exact ⟨.ori (regOf (rdField w)) (regOf (raField w)) (immField w), hrow, by simp, rfl⟩
  | ldw rd ra imm =>
    exact ⟨.ldw (regOf (rdField w)) (regOf (raField w)) (immField w), hrow, by simp, rfl⟩
  | stw rs ra imm =>
    exact ⟨.stw (regOf (rdField w)) (regOf (raField w)) (immField w), hrow, by simp, rfl⟩
  | lui rd imm => exact ⟨.lui (regOf (rdField w)) (immField w), hrow, by simp, rfl⟩
  | rdcsr rd csr => exact ⟨.rdcsr (regOf (rdField w)) (immField w), hrow, by simp, rfl⟩
  | wrcsr csr ra => exact ⟨.wrcsr (immField w) (regOf (raField w)), hrow, by simp, rfl⟩
  | add rd ra rb =>
    exact ⟨.add (regOf (rdField w)) (regOf (raField w)) (regOf (rbField w)), hrow, by simp, rfl⟩
  | sub rd ra rb =>
    exact ⟨.sub (regOf (rdField w)) (regOf (raField w)) (regOf (rbField w)), hrow, by simp, rfl⟩
  | cmp ra rb => exact ⟨.cmp (regOf (raField w)) (regOf (rbField w)), hrow, by simp, rfl⟩
  | ldcur ra => exact ⟨.ldcur (regOf (raField w)), hrow, by simp, rfl⟩
  | mdec rd => exact ⟨.mdec (regOf (rdField w)), hrow, by simp, rfl⟩
  | metric met dir rd ra rb =>
    exact ⟨.metric (metricOfBit ((mField w).getLsbD 2)) (dirOfBit ((mField w).getLsbD 0)) (regOf (rdField w))
      (regOf (raField w)) (regOf (rbField w)), hrow, by simp [← metricOfBit_eq_iff, ← dirOfBit_eq_iff], rfl⟩
  | act met rd =>
    exact ⟨.act (metricOfBit ((mField w).getLsbD 2)) (regOf (rdField w)), hrow, by simp [← metricOfBit_eq_iff], rfl⟩
  | msrch met dir rd ra =>
    have hdir := (searchDirOfCode_isSome_iff _).mpr (hmsrch hop)
    rw [← extractLsb'_mField w (by omega)] at hdir
    obtain ⟨dir', hdir'⟩ := Option.isSome_iff_exists.mp hdir
    exact ⟨.msrch (metricOfBit ((mField w).getLsbD 2)) dir' (regOf (rdField w)) (regOf (raField w)), hrow,
      by simp [← metricOfBit_eq_iff, (searchDirOfCode_eq_some_iff _ _).mp hdir'], rfl⟩
  | tqmb mode =>
    exact ⟨.tqmb (modeOfCode ((mField w).extractLsb' 0 2)), hrow, (modeOfCode_eq_iff _ _).mp rfl, rfl⟩
  | putb ra n =>
    refine ⟨.putb (regOf (raField w)) ((mField w).extractLsb' 0 6), hrow, by simp, ?_⟩
    rw [extractLsb'_mField w (by omega)]
    simpa [Instr.wellFormed] using hputb hop
  | frmbeg t =>
    have htype := (frameTypeOfCode_isSome_iff _).mpr (hfrmbeg hop)
    rw [← extractLsb'_mField w (by omega)] at htype
    obtain ⟨t', ht'⟩ := Option.isSome_iff_exists.mp htype
    exact ⟨.frmbeg t', hrow, (frameTypeOfCode_eq_some_iff _ _).mp ht', rfl⟩
  | frmnext keep => exact ⟨.frmnext ((mField w).getLsbD 0), hrow, rfl, rfl⟩

/-- Settles O3: a word decodes only to a command of its row, and decodes where it is of a row and
passes the value checks. -/
theorem opcodeMap : Obligations.OpcodeMap := by
  unfold Obligations.OpcodeMap
  have match_of_decode : ∀ (w : Word) (i : Instr), decodeWord w = .ok i →
      w &&& (opcodeRow i).mask = (opcodeRow i).fixed := fun w i h =>
    (and_mask_eq_fixed_iff i w).mpr ((decodeWord_ok_iff i w).mp h).1
  refine ⟨match_of_decode, fun w => ⟨?_, ?_⟩⟩
  · rintro ⟨i, h⟩
    exact ⟨⟨i, match_of_decode w i h⟩, valuesLegal_of_decodeWord h⟩
  · rintro ⟨⟨i, hmatch⟩, hlegal⟩
    obtain ⟨j, hj⟩ := exists_operandsIn ((and_mask_eq_fixed_iff i w).mp hmatch) hlegal
    exact ⟨j, (decodeWord_ok_iff j w).mpr hj⟩

/-! ### The words of the table of worked encodings (rule R119) -/

/-- Settles O4: the decoder run on each word. -/
theorem workedWords : Obligations.WorkedWords := by
  unfold Obligations.WorkedWords
  exact ⟨rfl, rfl, rfl, rfl, rfl, rfl, rfl, rfl, rfl, rfl, rfl, rfl, rfl, rfl, rfl, rfl⟩

end Sys2Proof.Machine

/-! SUPPORT. The sequencer's commands (`40_sequencer.md`): their words by format, the integers a register write holds
modulo 2^32, and what a word access and a register write check (rules R141 to R155). -/

namespace Sys2Proof.Machine

/-! ### A command whose word is one of a format (rule R111) -/

section Formats

variable {op : BitVec 6} {rd ra rb : BitVec 4} {i : Instr}

theorem encodedR_of_encode {m : BitVec 14} (h : encode i = formatR op rd ra rb m) (hwf : i.wellFormed = true) :
    encodedR op rd ra rb m i := fun w hop hrd hra hrb hm =>
  (decodeWord_ok_iff_encode i w).mpr ⟨h.trans ((formatR_eq_iff w _ _ _ _ _).mpr ⟨hop, hrd, hra, hrb, hm⟩), hwf⟩

theorem encodedI_of_encode {imm : BitVec 16} (h : encode i = formatI op rd ra imm) (hwf : i.wellFormed = true) :
    encodedI op rd ra imm i := fun w hop hrd hra hz himm =>
  (decodeWord_ok_iff_encode i w).mpr ⟨h.trans ((formatI_eq_iff w _ _ _ _).mpr ⟨hop, hrd, hra, hz, himm⟩), hwf⟩

theorem encodedB_of_encode {off : BitVec 22} (h : encode i = formatB op rd off) (hwf : i.wellFormed = true) :
    encodedB op rd off i := fun w hop hrd hoff =>
  (decodeWord_ok_iff_encode i w).mpr ⟨h.trans ((formatB_eq_iff w _ _ _).mpr ⟨hop, hrd, hoff⟩), hwf⟩

end Formats

/-- A branch word whose condition number names no condition is refused for that number (rule R117). -/
theorem decodeWord_of_badCondition {w : Word} (hop : opField w = 0x02) (hcond : 11 ≤ (rdField w).toNat) :
    decodeWord w = .error .badCondition := by
  have hnone : condOfCode (rdField w) = none := by
    rw [← Option.not_isSome_iff_eq_none, condOfCode_isSome_iff]
    omega
  simp [decodeWord, hop, hnone]

/-! ### `NOP`, `HALT` and `BR` (rules R141 to R143) -/

/-- Settles O11: both words decode, and both states are written out with the next `CP`. -/
theorem nopAndHalt : Obligations.NopAndHalt := by
  unfold Obligations.NopAndHalt
  refine ⟨rfl, rfl, fun s => ?_⟩
  rw [← nextCp_eq]
  exact ⟨rfl, rfl⟩

/-- What each condition tests, as rule R143 lists it. -/
theorem condHolds_iff (f : Flags) (c : Cond) : condHolds f c = true ↔
    c = .al ∨ (c = .eq ∧ f.z = true) ∨ (c = .ne ∧ f.z = false) ∨ (c = .lt ∧ f.lt = true) ∨
      (c = .ge ∧ f.lt = false) ∨ (c = .ltu ∧ f.ltu = true) ∨ (c = .geu ∧ f.ltu = false) ∨
      (c = .esc ∧ f.esc = true) ∨ (c = .nesc ∧ f.esc = false) ∨ (c = .exh ∧ f.exh = true) ∨
      (c = .nexh ∧ f.exh = false) := by
  cases c <;> simp [condHolds]

/-- A word is the integer it stands for, modulo 2^32 (rule R8). -/
theorem ofInt_toNat (w : Word) : BitVec.ofInt 32 w.toNat = w := by
  rw [BitVec.ofInt_natCast, BitVec.ofNat_toNat, BitVec.setWidth_eq]

theorem branchTarget_eq (s : State) (off : BitVec 22) :
    branchTarget s off = BitVec.ofInt 32 (s.cp.toNat + 4 + 4 * off.toInt) := by
  rw [BitVec.ofInt_add, BitVec.ofInt_add, BitVec.ofInt_mul, ofInt_toNat]
  rfl

/-- Settles O12: one equation for all conditions, the condition and the target each by its own lemma. -/
theorem branch : Obligations.Branch := by
  unfold Obligations.Branch
  refine ⟨fun c off s => ⟨encodedB_of_encode rfl rfl, _, rfl, rfl, ?_⟩, rfl, fun w => decodeWord_of_badCondition⟩
  simp only [← condHolds_iff, ← branchTarget_eq, ← nextCp_eq]

/-! ### Commands that write one register (rules R144 to R148) -/

/-- A register write that completes is the statements' frame, for any integer its word stands for. -/
theorem wroteRegister_setX (s : State) (rd : Reg) {w : Word} {v : Int} (h : w = BitVec.ofInt 32 v) :
    wroteRegister s rd v (s.setX rd w).advance := by
  have hx : ∀ r, (s.setX rd w).advance.x r = if r = 0 then 0 else if r = rd then w else s.x r := fun r =>
    (State.x_congr (State.advance_regs _) r).trans (State.setX_x s rd r w)
  refine ⟨?_, fun r hr => ?_, ?_, fun a => ?_, ?_⟩
  · rw [hx, if_pos rfl, h]
  · rw [hx, if_neg hr]
    split
    · next hr0 => rw [hr0, State.x_zero]
    · rfl
  · rw [State.advance_cp, toNat_nextCp, State.setX_cp]
  · rw [State.advance_mem, State.setX_mem]
  · rw [State.setX_eq]
    rfl

/-- A word is given modulo 2^32 by the number it is. -/
theorem eq_ofInt_of_toNat_eq {w : Word} {n : Nat} (h : w.toNat = n) : w = BitVec.ofInt 32 n := by
  rw [← h, ofInt_toNat]

/-- A register plus a sign-extended immediate, modulo 2^32 (rules R113, R144, R151). -/
theorem add_sext16_eq (w : Word) (imm : BitVec 16) : w + sext16 imm = BitVec.ofInt 32 (w.toNat + imm.toInt) := by
  rw [BitVec.ofInt_add, ofInt_toNat]
  rfl

theorem add_eq_ofInt (v w : Word) : v + w = BitVec.ofInt 32 (v.toNat + w.toNat) := by
  rw [BitVec.ofInt_add, ofInt_toNat, ofInt_toNat]

theorem sub_eq_ofInt (v w : Word) : v - w = BitVec.ofInt 32 (v.toNat - w.toNat) := by
  rw [sub_eq_add_neg, sub_eq_add_neg, BitVec.ofInt_add, BitVec.ofInt_neg, ofInt_toNat, ofInt_toNat]

/-- Settles O13: each command is one register write, and its word stands for the statement's integer. -/
theorem integerCommands : Obligations.IntegerCommands := by
  unfold Obligations.IntegerCommands
  refine fun rd ra rb imm s =>
    ⟨⟨encodedI_of_encode rfl rfl, _, rfl, wroteRegister_setX s rd (add_sext16_eq _ _)⟩,
     ⟨encodedI_of_encode rfl rfl, _, rfl, wroteRegister_setX s rd (eq_ofInt_of_toNat_eq ?_)⟩,
     ⟨encodedI_of_encode rfl rfl, _, rfl, wroteRegister_setX s rd (eq_ofInt_of_toNat_eq ?_)⟩,
     ⟨encodedR_of_encode rfl rfl, _, rfl, wroteRegister_setX s rd (add_eq_ofInt _ _)⟩,
     ⟨encodedR_of_encode rfl rfl, _, rfl, wroteRegister_setX s rd (sub_eq_ofInt _ _)⟩⟩
  · rw [BitVec.toNat_or, BitVec.toNat_setWidth_of_le (by decide)]
  · rw [toNat_append_eq_add, BitVec.toNat_zero, Nat.add_zero, Nat.mul_comm]

/-! ### `CMP` (rule R149) -/

/-- Settles O14: the model's equality test is the statement's. -/
theorem compare : Obligations.Compare := by
  unfold Obligations.Compare
  intro ra rb s
  refine ⟨encodedR_of_encode rfl rfl, ?_⟩
  rw [← nextCp_eq, ← beq_eq_decide]
  rfl

/-! ### Word accesses (rules R151 to R153) -/

/-- The effective address as a number (rule R151). -/
theorem toNat_effectiveAddress (s : State) (ra : Reg) (imm : BitVec 16) :
    ((effectiveAddress s ra imm).toNat : Int) = ((s.x ra).toNat + imm.toInt) % 2 ^ 32 := by
  rw [effectiveAddress, add_sext16_eq, BitVec.toNat_ofInt]
  exact Int.toNat_of_nonneg (Int.emod_nonneg _ (by decide))

/-- A command that checks a word access and then leaves `u`: it completes, or takes one of two faults, alignment
before existence (rules R152, R153). -/
theorem complete_wordAccess (s u : State) (ea : Word) :
    (ea.toNat % 4 = 0 → ea.toNat + 4 ≤ s.memSize →
      complete s (checkWordAccess s ea >>= fun _ => pure u) = .next u.advance) ∧
    (ea.toNat % 4 ≠ 0 →
      complete s (checkWordAccess s ea >>= fun _ => pure u) = .next (faulted s 4 ea.toNat)) ∧
    (ea.toNat % 4 = 0 → s.memSize < ea.toNat + 4 →
      complete s (checkWordAccess s ea >>= fun _ => pure u) = .next (faulted s 3 ea.toNat)) := by
  unfold checkWordAccess
  refine ⟨fun halign hmem => ?_, fun halign => ?_, fun halign hmem => ?_⟩
  · rw [require_bind_of beq_iff_eq halign, require_of decide_eq_true_iff hmem]
    rfl
  · rw [require_bind_of_not beq_iff_eq halign]
    exact congrArg _ (takeFault_eq s _)
  · rw [require_bind_of beq_iff_eq halign, require_of_not decide_eq_true_iff (Nat.not_le_of_lt hmem)]
    exact congrArg _ (takeFault_eq s _)

/-- A word read is its four bytes, the lowest address least significant (rule R81a). -/
theorem toNat_readWord (m : Memory) (a : Nat) :
    (m.readWord a).toNat = (m.read a).toNat + 2 ^ 8 * (m.read (a + 1)).toNat +
      2 ^ 16 * (m.read (a + 2)).toNat + 2 ^ 24 * (m.read (a + 3)).toNat := by
  simp only [Memory.readWord, wordOfBytes, toNat_append_eq_add]
  omega

/-- Settles O15: the check's three outcomes; where it passes, a register write of the word read. -/
theorem loadWord : Obligations.LoadWord := by
  unfold Obligations.LoadWord
  intro rd ra imm s ea
  obtain ⟨hdone, hmisaligned, habsent⟩ :=
    complete_wordAccess s (s.setX rd (s.mem.readWord ea)) (effectiveAddress s ra imm)
  refine ⟨encodedI_of_encode rfl rfl, toNat_effectiveAddress s ra imm, fun halign hmem => ?_, hmisaligned, habsent⟩
  exact ⟨_, hdone halign hmem, wroteRegister_setX s rd (eq_ofInt_of_toNat_eq (toNat_readWord s.mem ea))⟩

/-- The bytes of a word, by number (rule R81a). -/
theorem toNat_bytesOfWord_getD (w : Word) {k : Nat} (hk : k < 4) :
    ((bytesOfWord w).getD k 0).toNat = w.toNat / 2 ^ (8 * k) % 2 ^ 8 := by
  have hbyte : (bytesOfWord w).getD k 0 = w.extractLsb' (8 * k) 8 := by interval_cases k <;> rfl
  rw [hbyte, BitVec.extractLsb'_toNat, Nat.shiftRight_eq_div_pow]

/-- Settles O16: the check's three outcomes; where it passes, the bytes of the word read back. -/
theorem storeWord : Obligations.StoreWord := by
  unfold Obligations.StoreWord
  intro rs ra imm s ea
  obtain ⟨hdone, hmisaligned, habsent⟩ :=
    complete_wordAccess s { s with mem := s.mem.writeWord ea (s.x rs) } (effectiveAddress s ra imm)
  refine ⟨encodedI_of_encode rfl rfl, toNat_effectiveAddress s ra imm, fun halign hmem => ?_, hmisaligned, habsent⟩
  refine ⟨_, hdone halign hmem, fun k hk => ?_, fun a ha => ?_, ?_⟩
  · rw [State.advance_mem, Memory.read_writeWord, if_pos (by omega), Nat.add_sub_cancel_left,
      toNat_bytesOfWord_getD _ hk]
  · rw [State.advance_mem, Memory.read_writeWord, if_neg (by omega)]
  · rw [← nextCp_eq]
    rfl

/-! ### `RDCSR` and `WRCSR` (rules R154, R155) -/

theorem exec_rdcsr_of_some (rd : Reg) {csr : BitVec 16} {c : Csr} (s : State) (hn : csrOfNumber csr.toNat = some c) :
    exec (.rdcsr rd csr) s = .next (s.setX rd (csrRead s c)).advance := by
  simp [exec, execRdcsr, hn]

theorem exec_rdcsr_of_none (rd : Reg) {csr : BitVec 16} (s : State) (hn : csrOfNumber csr.toNat = none) :
    exec (.rdcsr rd csr) s = .next (faulted s 5 csr.toNat) := by
  simp [exec, execRdcsr, hn, takeFault_eq, faultNumber]

/-- Settles O18: a register write of the value read, or the fault; the two sums by their own lemmas. -/
theorem readRegister : Obligations.ReadRegister := by
  unfold Obligations.ReadRegister
  exact fun rd csr s => ⟨encodedI_of_encode rfl rfl,
    fun c hn => ⟨_, exec_rdcsr_of_some rd s hn, wroteRegister_setX s rd (eq_ofInt_of_toNat_eq rfl)⟩,
    exec_rdcsr_of_none rd s, rfl, rfl, toNat_statusWord s, toNat_flagsWord s⟩

/-- The class test of a command's register write, as rule R155 lists the classes. -/
theorem engineMayWrite_iff (k : CsrClass) : engineMayWrite k = true ↔ k = .rw ∨ k = .rwf := by
  cases k <;> simp [engineMayWrite]

/-- The frame-lock test of a command's register write (rule R155). -/
theorem frameLock_iff (k : CsrClass) (s : State) :
    (k != .rwf || s.frame.fs == .awaiting) = true ↔ k = .rwf → s.frame.fs = .awaiting := by
  rw [Bool.or_eq_true, bne_iff_ne, beq_iff_eq, ne_eq, imp_iff_not_or]

section RegisterWrite

variable {csr : BitVec 16} (ra : Reg) {s : State} {c : Csr}

/-- A command's register write to a number that exists: the class test, then the frame lock, then the store. -/
theorem exec_wrcsr_of_some (hn : csrOfNumber csr.toNat = some c) : exec (.wrcsr csr ra) s = complete s
    (require (engineMayWrite (csrClass c)) ⟨.illegalCsr, csr.toNat⟩ >>= fun _ =>
      require (csrClass c != .rwf || s.frame.fs == .awaiting) (stateFault s) >>= fun _ =>
        pure (csrStore s c (s.x ra))) := by
  simp only [exec, execWrcsr, hn]

/-- A register that no command may write is refused before the frame state is looked at. -/
theorem exec_wrcsr_of_refused (hn : csrOfNumber csr.toNat = some c) (hclass : ¬(csrClass c = .rw ∨ csrClass c = .rwf)) :
    exec (.wrcsr csr ra) s = .next (faulted s 5 csr.toNat) := by
  rw [exec_wrcsr_of_some ra hn, require_bind_of_not (engineMayWrite_iff _) hclass]
  exact congrArg _ (takeFault_eq s _)

theorem exec_wrcsr_of_none (hn : csrOfNumber csr.toNat = none) :
    exec (.wrcsr csr ra) s = .next (faulted s 5 csr.toNat) := by
  simp [exec, execWrcsr, hn, takeFault_eq, faultNumber]

/-- A frame-locked register is refused while a frame is open. -/
theorem exec_wrcsr_of_locked (hn : csrOfNumber csr.toNat = some c) (hclass : csrClass c = .rwf)
    (hfs : s.frame.fs ≠ .awaiting) : exec (.wrcsr csr ra) s = .next (faulted s 6 (stateDetail s)) := by
  rw [exec_wrcsr_of_some ra hn, require_bind_of (engineMayWrite_iff _) (.inr hclass),
    require_bind_of_not (frameLock_iff _ s) fun h => hfs (h hclass), ← stateDetail_eq]
  exact congrArg _ (takeFault_eq s _)

theorem exec_wrcsr_of_writable (hn : csrOfNumber csr.toNat = some c)
    (hclass : csrClass c = .rw ∨ (csrClass c = .rwf ∧ s.frame.fs = .awaiting)) :
    exec (.wrcsr csr ra) s = .next (csrStore s c (s.x ra)).advance := by
  rw [exec_wrcsr_of_some ra hn, require_bind_of (engineMayWrite_iff _) (hclass.imp_right And.left),
    require_bind_of (frameLock_iff _ s) fun h => by simpa [h] using hclass]
  rfl

end RegisterWrite

/-- Moving on to the next command shows in no register but `CP`. -/
theorem csrRead_advance (s : State) {c : Csr} (h : c ≠ .cp) : csrRead s.advance c = csrRead s c := by
  cases c
  case cp => exact absurd rfl h
  all_goals rfl

/-- Settles O19: the store's own lemmas carried over the advance of `CP`, then the faults in their order. -/
theorem writeRegister : Obligations.WriteRegister := by
  unfold Obligations.WriteRegister
  intro ra csr s
  refine ⟨encodedI_of_encode rfl rfl, fun c hn hclass => ⟨_, exec_wrcsr_of_writable ra hn hclass, ?_⟩,
    fun c hn hclass => exec_wrcsr_of_refused ra hn ?_, exec_wrcsr_of_none ra, fun c => exec_wrcsr_of_locked ra⟩
  · have hro : csrClass c ≠ .ro := by intro h; simp [h] at hclass
    have hhc : csrClass c ≠ .hc := by intro h; simp [h] at hclass
    have hcp : c ≠ .cp := by rintro rfl; simp [csrClass] at hclass
    obtain ⟨hregs, hrun, -, -, hcur, hqc, -, hmem, hsize, hhost⟩ := csrStore_frame s c (s.x ra)
    refine ⟨?_, fun c' hne hne_cp hacc => ?_, ?_, ?_, fun r => State.x_congr hregs r, fun a => ?_, hrun, hcur, hqc,
      hsize, hhost⟩
    · rw [csrRead_advance _ hcp, csrRead_csrStore_same s c _ hro hhc]
    · rw [csrRead_advance _ hne_cp, csrRead_csrStore_other s _ hne hacc]
    · rintro rfl; rfl
    · rw [State.advance_cp, toNat_nextCp, csrStore_cp s c _ hcp]
    · rw [State.advance_mem, hmem]
  · rcases hclass with h | h | h <;> simp [h]

end Sys2Proof.Machine

/-! SUPPORT. The block metric (rules R170, R171): its laws on lists of samples, and the full double sum. -/

namespace Sys2Proof.Machine

/-! ### Two samples -/

theorem sampleDistance_sad (p q : Int) : sampleDistance .sad p q = (p - q).natAbs := rfl

theorem sampleDistance_ssd (p q : Int) : sampleDistance .ssd p q = (p - q).natAbs ^ 2 := (sq _).symm

@[simp] theorem sampleDistance_self (met : MetricKind) (p : Int) : sampleDistance met p p = 0 := by
  cases met <;> simp [sampleDistance]

theorem sampleDistance_comm (met : MetricKind) (p q : Int) : sampleDistance met p q = sampleDistance met q p := by
  have h : (p - q).natAbs = (q - p).natAbs := by omega
  cases met <;> simp only [sampleDistance, h]

theorem sampleDistance_eq_zero_iff (met : MetricKind) (p q : Int) : sampleDistance met p q = 0 ↔ p = q := by
  cases met <;> simp [sampleDistance, sub_eq_zero]

theorem sampleDistance_sad_le_ssd (p q : Int) : sampleDistance .sad p q ≤ sampleDistance .ssd p q :=
  Nat.le_mul_self _

/-- The difference of two samples is at most 255. -/
theorem sampleDistance_sad_le {p q : Nat} (hp : p ≤ 255) (hq : q ≤ 255) : sampleDistance .sad p q ≤ 255 := by
  rw [sampleDistance_sad]
  omega

theorem sampleDistance_ssd_le {p q : Nat} (hp : p ≤ 255) (hq : q ≤ 255) :
    sampleDistance .ssd p q ≤ 255 * sampleDistance .sad p q :=
  Nat.mul_le_mul_right _ (sampleDistance_sad_le hp hq)

theorem sampleDistance_ssd_eq_sq (p q : Int) : (sampleDistance .ssd p q : Int) = (p - q) ^ 2 := by
  rw [sampleDistance_ssd, Nat.cast_pow, Int.natAbs_sq]

/-! ### Two blocks, sample by sample -/

@[simp] theorem blockMetric_nil (met : MetricKind) : blockMetric met [] [] = 0 := rfl

@[simp] theorem blockMetric_cons (met : MetricKind) (p q : Nat) (a b : List Nat) :
    blockMetric met (p :: a) (q :: b) = sampleDistance met p q + blockMetric met a b := by
  simp [blockMetric]

theorem blockMetric_self (met : MetricKind) (a : List Nat) : blockMetric met a a = 0 := by
  induction a with
  | nil => rfl
  | cons p a ih => rw [blockMetric_cons, sampleDistance_self, ih]

theorem blockMetric_comm (met : MetricKind) (a b : List Nat) : blockMetric met a b = blockMetric met b a := by
  unfold blockMetric
  rw [List.zipWith_comm]
  simp only [sampleDistance_comm met]

/-- Only equal blocks have metric 0. -/
theorem blockMetric_eq_zero_iff (met : MetricKind) {a b : List Nat} (h : a.length = b.length) :
    blockMetric met a b = 0 ↔ a = b := by
  induction a generalizing b with
  | nil => simp [List.length_eq_zero_iff.mp h.symm]
  | cons p a ih =>
    cases b with
    | nil => cases h
    | cons q b =>
      rw [blockMetric_cons, Nat.add_eq_zero_iff, sampleDistance_eq_zero_iff, ih (Nat.succ.inj h), Int.natCast_inj,
        List.cons.injEq]

/-- The two metrics and their range, for blocks of samples 0 to 255. -/
theorem blockMetric_bounds {a b : List Nat} (h : a.length = b.length) (ha : ∀ p ∈ a, p ≤ 255) (hb : ∀ q ∈ b, q ≤ 255) :
    blockMetric .sad a b ≤ blockMetric .ssd a b ∧ blockMetric .ssd a b ≤ 255 * blockMetric .sad a b ∧
      blockMetric .sad a b ≤ 255 * a.length := by
  induction a generalizing b with
  | nil => simp [List.length_eq_zero_iff.mp h.symm]
  | cons p a ih =>
    cases b with
    | nil => cases h
    | cons q b =>
      rw [List.forall_mem_cons] at ha hb
      obtain ⟨hp, ha⟩ := ha
      obtain ⟨hq, hb⟩ := hb
      have hsamples := sampleDistance_sad_le_ssd p q
      have hssd := sampleDistance_ssd_le hp hq
      have hsad := sampleDistance_sad_le hp hq
      obtain ⟨hle, hle255, hrange⟩ := ih (Nat.succ.inj h) ha hb
      simp only [blockMetric_cons, List.length_cons]
      omega

/-! ### The double sum (rule R170) -/

/-- The sum over a block is the double sum over its rows and columns. -/
theorem sum_rasterBlock (n : Nat) (f : Nat → Nat → Nat) :
    (rasterBlock n f).sum = ∑ i ∈ Finset.range n, ∑ j ∈ Finset.range n, f i j := by
  rw [rasterBlock_eq_flatMap, List.flatMap_def, List.sum_flatten, List.map_map]
  rfl

theorem blockMetric_rasterBlock (met : MetricKind) (n : Nat) (A B : Nat → Nat → Nat) :
    blockMetric met (rasterBlock n A) (rasterBlock n B) =
      ∑ i ∈ Finset.range n, ∑ j ∈ Finset.range n, sampleDistance met (A i j) (B i j) := by
  rw [blockMetric, zipWith_rasterBlock, sum_rasterBlock]

/-- A bound of every sample of a function of row and column bounds its block. -/
theorem forall_mem_rasterBlock {α : Type} {P : α → Prop} {n : Nat} {f : Nat → Nat → α} (h : ∀ i j, P (f i j)) :
    ∀ v ∈ rasterBlock n f, P v := by
  intro v hv
  obtain ⟨k, -, rfl⟩ := List.mem_map.mp hv
  exact h _ _

/-- Settles O21: the double sums by the block's own sum, the ranges and laws sample by sample. -/
theorem metricSums : Obligations.MetricSums := by
  unfold Obligations.MetricSums
  intro A B hA hB a b
  have hlen : a.length = b.length := by simp [a, b]
  obtain ⟨hle, hle255, hrange⟩ :=
    blockMetric_bounds hlen (forall_mem_rasterBlock hA) (forall_mem_rasterBlock hB)
  have hrange : blockMetric .sad a b ≤ 65280 := by simpa [a] using hrange
  refine ⟨blockMetric_rasterBlock .sad 16 A B, ?_, hrange, by omega, fun met => blockMetric_self met a,
    fun met => blockMetric_comm met a b, fun met => blockMetric_eq_zero_iff met hlen, hle, hle255⟩
  simp only [a, b, blockMetric_rasterBlock, Nat.cast_sum, sampleDistance_ssd_eq_sq]

end Sys2Proof.Machine

/-! SUPPORT. The prediction of a unit in each mode (rules R173, R210). -/

namespace Sys2Proof.Machine

/-- Halving toward zero halves the magnitude and keeps the sign (rule R8). -/
theorem tz2_eq_sign_mul (v : Int) : tz2 v = v.sign * (v.natAbs / 2 : Nat) := by
  unfold tz2
  rcases lt_trichotomy v 0 with h | rfl | h
  · rw [if_neg (by omega), Int.sign_eq_neg_one_of_neg h]
    omega
  · rfl
  · rw [if_pos h.le, Int.sign_eq_one_of_pos h]
    omega

/-- Settles O22: the block sample by sample, and the model's chroma vector is the statement's. -/
theorem predictedBlock : Obligations.PredictedBlock := by
  unfold Obligations.PredictedBlock
  refine ⟨fun m p at2 n _ _ => predBlock_eq_rasterBlock m p at2 n, fun s pos => ?_⟩
  simp only [← tz2_eq_sign_mul]
  exact ⟨rfl, rfl, rfl, rfl⟩

end Sys2Proof.Machine

/-! SUPPORT. `LDCUR`, `METRIC` and `ACT`: their checks as the statements write them, the samples loaded, and the bound of
the intra cost (rules R175, R178, R180). -/

namespace Sys2Proof.Machine

/-! ### Checks of a command, one after another -/

section Checks

variable {s : State} {b : Bool} {p : Prop} {e : Trap} {f : Unit → Except Trap State}

/-- A command whose next check passes goes on with the rest. -/
theorem complete_require_of (hb : b = true ↔ p) (h : p) : complete s (require b e >>= f) = complete s (f ()) := by
  rw [require_bind_of hb h]

/-- A command whose next check fails takes that check's fault. -/
theorem complete_require_of_not (hb : b = true ↔ p) (h : ¬p) :
    complete s (require b e >>= f) = .next (faulted s (faultNumber e.code).toNat e.info) := by
  rw [require_bind_of_not hb h, complete_error, takeFault_eq]

/-- The check of the frame state, with its detail as the statements write it (rule R176). -/
theorem complete_require_stateFault (hb : b = true ↔ p) (h : ¬p) :
    complete s (require b (stateFault s) >>= f) = .next (faulted s 6 (stateDetail s)) := by
  rw [complete_require_of_not hb h, ← stateDetail_eq]
  rfl

end Checks

section Addresses

variable {s : State} {l : List Span} {touched : Nat → Prop} {f : Unit → Except Trap State}

/-- The memory check passes where every address that the statements name exists. -/
theorem complete_requireInMemory_of_exist (hl : ∀ a, (∃ sp ∈ l, sp.first ≤ a ∧ a < sp.first + sp.len) ↔ touched a)
    (h : ∀ a, touched a → a < s.memSize) : complete s (requireInMemory s l >>= f) = complete s (f ()) := by
  rw [requireInMemory_of_forall_lt fun a ha => h a ((hl a).mp ha)]
  rfl

/-- The memory check faults with the lowest missing of the addresses that the statements name (rule R174). -/
theorem complete_requireInMemory_of_missing (hl : ∀ a, (∃ sp ∈ l, sp.first ≤ a ∧ a < sp.first + sp.len) ↔ touched a)
    {a : Nat} (h : lowestMissing s.memSize touched a) :
    complete s (requireInMemory s l >>= f) = .next (faulted s 3 a) := by
  rw [requireInMemory_of_lowestMissing s l a (by simpa only [hl] using h)]
  exact congrArg Host.Outcome.next (takeFault_eq s _)

end Addresses

/-- The frame is being coded and a unit is loaded, as the statements write it (rules R178, R180). -/
theorem unitReady_iff (s : State) : (inFrame s && s.cur.valid) = true ↔ coding s ∧ s.cur.valid = true := by
  rw [Bool.and_eq_true, inFrame_iff]

/-! ### `LDCUR` (rule R175) -/

/-- The frame is being coded and no unit awaits its entropy coding (rule R175). -/
theorem ldcurReady_iff (s : State) :
    (inFrame s && !s.frame.uphase) = true ↔ coding s ∧ s.frame.uphase = false := by
  rw [Bool.and_eq_true, Bool.not_eq_true', inFrame_iff]

theorem unitAligned_iff (s : State) (pos : Vec) :
    unitAligned s pos = true ↔ 0 ≤ pos.x ∧ 0 ≤ pos.y ∧ pos.x % 16 = 0 ∧ pos.y % 16 = 0 ∧ pos.x + 16 ≤ lumaW s ∧
      pos.y + 16 ≤ lumaH s := by
  simp only [unitAligned, Bool.and_eq_true, unitInside_iff, decide_eq_true_iff]
  tauto

/-- The rows of a square block one after another are the block in raster order (rules R11, R96). -/
theorem flatten_rows (p : Plane) (m : Memory) (x y n : Nat) :
    (p.rows m x y n n).flatten = rasterBlock n fun i j => m.read (p.base + (y + i) * p.width + x + j) := by
  rw [rows_eq, rasterBlock_eq_flatMap, List.flatMap_def]

/-- A sample of a loaded buffer is the byte of its plane (rules R62, R175). -/
theorem toVector_flatten_rows_getElem (p : Plane) (m : Memory) (x y : Nat) {n size : Nat} (i j : Fin n)
    (h : n * i.val + j.val < size) :
    (toVector size 0 (p.rows m x y n n).flatten)[n * i.val + j.val] =
      m.read (p.base + (y + i) * p.width + x + j) := by
  rw [toVector_getElem, flatten_rows, getD_rasterBlock _ _ i.isLt j.isLt]

/-- The position loaded from a register with no negative half is that register (rules R10, R175). -/
theorem pack_toNat_unpack {w : Word} (hx : 0 ≤ lo16s w) (hy : 0 ≤ hi16s w) :
    pack (lo16s w).toNat (hi16s w).toNat = w := by
  rw [Int.toNat_of_nonneg hx, Int.toNat_of_nonneg hy, pack_unpack]

/-- Settles O20: the checks in their order; where they pass, the loaded buffers sample by sample. -/
theorem loadCurrentUnit : Obligations.LoadCurrentUnit := by
  unfold Obligations.LoadCurrentUnit
  intro ra s x y legal placed touched
  have legal_iff : _ ↔ legal := ldcurReady_iff s
  have placed_iff : _ ↔ placed := unitAligned_iff s ⟨x, y⟩
  have touched_iff : ∀ a, _ ↔ touched a := mem_unitSpans_iff s s.cfg.curY s.cfg.curCb s.cfg.curCr x.toNat y.toNat
  -- what is left to check after each of the first two
  have after1 : legal → exec (.ldcur ra) s = complete s _ := complete_require_of legal_iff
  have after2 := fun h1 h2 => (after1 h1).trans (complete_require_of placed_iff h2)
  refine ⟨encodedR_of_encode rfl rfl, fun h1 h2 hexist => ?_, complete_require_stateFault legal_iff,
    fun h1 hnot => (after1 h1).trans (complete_require_of_not placed_iff hnot),
    fun a h1 h2 hmissing => (after2 h1 h2).trans (complete_requireInMemory_of_missing touched_iff hmissing)⟩
  have hdone : exec (.ldcur ra) s = .next { s with cur := loadUnit s x.toNat y.toNat }.advance :=
    (after2 h1 h2).trans (complete_requireInMemory_of_exist touched_iff hexist)
  obtain ⟨hx, hy, -⟩ := h2
  refine ⟨_, hdone, fun i j => ?_, fun i j => ?_, fun i j => ?_, pack_toNat_unpack hx hy, rfl, fun _ => rfl, ?_⟩
  · exact toVector_flatten_rows_getElem (sourcePlanes s).y s.mem _ _ i j _
  · exact toVector_flatten_rows_getElem (sourcePlanes s).cb s.mem _ _ i j _
  · exact toVector_flatten_rows_getElem (sourcePlanes s).cr s.mem _ _ i j _
  · rw [← nextCp_eq]
    rfl

/-! ### `METRIC` (rule R178) -/

/-- The directions a frame type has, as the statements write it (rules R177, R178). -/
theorem dirAllowed_iff (s : State) (dir : Dir) :
    dirAllowed s dir = true ↔
      (dir = .forward ∧ s.frame.ftype ≠ .intra) ∨ (dir = .backward ∧ s.frame.ftype = .bidirectional) := by
  cases dir <;> simp [dirAllowed]

/-- The reference luma plane of a direction, as the statements write it (rule R177). -/
theorem refLuma_eq (s : State) (dir : Dir) : refLuma s dir = ⟨refBase s dir, lumaW s, lumaH s⟩ := by
  cases dir <;> rfl

/-- The footprint of a block of the reference luma plane, as the statements write it (rules R174, R177). -/
theorem mem_refLuma_footprint_iff (s : State) (dir : Dir) (at2 : Vec) (n a : Nat) :
    (∃ sp ∈ footprint (refLuma s dir) at2 n, sp.first ≤ a ∧ a < sp.first + sp.len) ↔
      footprintAddress (refBase s dir) (lumaW s) at2.x at2.y n a := by
  rw [mem_footprint_iff, refLuma_eq]

/-- Settles O24: the five checks in their order; where they pass, one register write. -/
theorem metricCommand : Obligations.MetricCommand := by
  unfold Obligations.MetricCommand
  intro met dir rd ra rb s ox oy px2 py2 ready allowed placed inside touched i
  have ready_iff : _ ↔ ready := unitReady_iff s
  have allowed_iff : _ ↔ allowed := dirAllowed_iff s dir
  have placed_iff : _ ↔ placed := unitInside_iff s ⟨ox, oy⟩
  have inside_iff : _ ↔ inside := inPlane_iff ⟨px2, py2⟩ 16 (lumaW s) (lumaH s)
  have touched_iff : ∀ a, _ ↔ touched a := mem_refLuma_footprint_iff s dir ⟨px2, py2⟩ 16
  -- what is left to check after each of the first four
  have after1 : ready → exec i s = complete s _ := complete_require_of ready_iff
  have after2 := fun h1 h2 => (after1 h1).trans (complete_require_of allowed_iff h2)
  have after3 := fun h1 h2 h3 => (after2 h1 h2).trans (complete_require_of placed_iff h3)
  have after4 := fun h1 h2 h3 h4 => (after3 h1 h2 h3).trans (complete_require_of inside_iff h4)
  refine ⟨?_, fun h1 h2 h3 h4 hexist => ⟨_,
      (after4 h1 h2 h3 h4).trans (complete_requireInMemory_of_exist touched_iff hexist),
      refLuma_eq s dir ▸ wroteRegister_setX s rd (BitVec.ofInt_natCast ..).symm⟩,
    complete_require_stateFault ready_iff, fun h1 hnot => ?_,
    fun h1 h2 hnot => (after2 h1 h2).trans (complete_require_of_not placed_iff hnot),
    fun h1 h2 h3 hnot => (after3 h1 h2 h3).trans (complete_require_of_not inside_iff hnot),
    fun a h1 h2 h3 h4 hmissing =>
      (after4 h1 h2 h3 h4).trans (complete_requireInMemory_of_missing touched_iff hmissing)⟩
  · cases met <;> cases dir <;> exact encodedR_of_encode rfl rfl
  · have hfault := (after1 h1).trans (complete_require_of_not allowed_iff hnot)
    cases dir <;> exact hfault

/-! ### `ACT` (rule R180) -/

/-- The sum over a buffer is the sum over its entries. -/
theorem sum_map_toList {α : Type} {n : Nat} (v : Vector α n) (f : α → Nat) :
    (v.toList.map f).sum = ∑ k : Fin n, f v[k] := by
  rw [← List.sum_ofFn]
  congr 1
  apply List.ext_getElem <;> simp

theorem lumaMean_eq (s : State) : lumaMean s = ((∑ k : Fin 256, (s.cur.y[k]).toNat) + 128) / 256 := by
  rw [lumaMean, curLuma, sum_map_toList]

theorem intraCost_eq (met : MetricKind) (s : State) :
    intraCost met s = ∑ k : Fin 256, sampleDistance met (s.cur.y[k]).toNat (lumaMean s) := by
  rw [intraCost, curLuma, List.map_map, sum_map_toList]
  rfl

section MeanDistance

variable {p : Fin 256 → Nat} {mean : Nat}

/-- The squared distances of 256 samples to their rounded mean. Each is at most its chord over 0 to 255,
`255p - 2p·mean + mean²`, and the chords' sum is greatest where the mean is in the middle of the range. -/
theorem sum_ssd_mean_le (hp : ∀ k, p k ≤ 255) (hmean : mean = ((∑ k, p k) + 128) / 256) :
    ∑ k, sampleDistance .ssd (p k) mean ≤ 4194304 := by
  have hchord : ∀ k, (sampleDistance .ssd (p k) mean : Int) ≤ (255 - 2 * mean) * p k + mean ^ 2 := by
    intro k
    have := hp k
    rw [sampleDistance_ssd_eq_sq]
    nlinarith
  have hsum : ((∑ k, sampleDistance .ssd (p k) mean : Nat) : Int) ≤
      (255 - 2 * mean) * (∑ k, p k : Nat) + 256 * mean ^ 2 := by
    calc ((∑ k, sampleDistance .ssd (p k) mean : Nat) : Int)
        = ∑ k, (sampleDistance .ssd (p k) mean : Int) := Nat.cast_sum _ _
      _ ≤ ∑ k, ((255 - 2 * mean) * p k + mean ^ 2 : Int) := Finset.sum_le_sum fun k _ => hchord k
      _ = _ := by
        rw [Finset.sum_add_distrib, ← Finset.mul_sum, Finset.sum_const, Finset.card_univ, Fintype.card_fin,
          nsmul_eq_mul, Nat.cast_sum, Nat.cast_ofNat]
  generalize (∑ k, p k) = total at hmean hsum
  obtain ⟨d, hd, hlow, hhigh⟩ : ∃ d : Int, (total : Int) = 256 * mean + d ∧ -128 ≤ d ∧ d ≤ 128 :=
    ⟨total - 256 * mean, by omega, by omega, by omega⟩
  have hsquare : d ^ 2 ≤ 128 ^ 2 := sq_le_sq' hlow hhigh
  rw [hd] at hsum
  have : ((∑ k, sampleDistance .ssd (p k) mean : Nat) : Int) ≤ 4194304 := by
    nlinarith [sq_nonneg (128 * (2 * (mean : Int) - 255) + d)]
  exact_mod_cast this

/-- The absolute distances, from the squared ones: `256|x| ≤ x² + 128²`. -/
theorem sum_sad_mean_le (hp : ∀ k, p k ≤ 255) (hmean : mean = ((∑ k, p k) + 128) / 256) :
    ∑ k, sampleDistance .sad (p k) mean ≤ 32768 := by
  have hsample : ∀ k, 256 * sampleDistance .sad (p k) mean ≤ sampleDistance .ssd (p k) mean + 128 ^ 2 := by
    intro k
    rw [sampleDistance_sad, sampleDistance_ssd]
    nlinarith [two_mul_le_add_sq ((p k : Int) - mean).natAbs 128]
  have hsum : 256 * ∑ k, sampleDistance .sad (p k) mean ≤ (∑ k, sampleDistance .ssd (p k) mean) + 256 * 128 ^ 2 := by
    calc 256 * ∑ k, sampleDistance .sad (p k) mean
        = ∑ k, 256 * sampleDistance .sad (p k) mean := Finset.mul_sum ..
      _ ≤ ∑ k, (sampleDistance .ssd (p k) mean + 128 ^ 2) := Finset.sum_le_sum fun k _ => hsample k
      _ = _ := by
        rw [Finset.sum_add_distrib, Finset.sum_const, Finset.card_univ, Fintype.card_fin, smul_eq_mul]
  have := sum_ssd_mean_le hp hmean
  omega

end MeanDistance

/-- The intra cost's range (rule R180). -/
theorem intraCost_le (met : MetricKind) (s : State) :
    intraCost met s ≤ if met = .sad then 32768 else 4194304 := by
  have hp : ∀ k : Fin 256, (s.cur.y[k]).toNat ≤ 255 := fun k => Nat.le_of_lt_succ (s.cur.y[k]).isLt
  rw [intraCost_eq]
  cases met with
  | sad => exact sum_sad_mean_le hp (lumaMean_eq s)
  | ssd => exact sum_ssd_mean_le hp (lumaMean_eq s)

/-- The intra cost, as the statements write it. -/
theorem intraCost_eq_sum (met : MetricKind) (s : State) :
    intraCost met s = ∑ k : Fin 256,
      (if met = .sad then (((s.cur.y[k]).toNat : Int) - lumaMean s).natAbs
       else (((s.cur.y[k]).toNat : Int) - lumaMean s).natAbs ^ 2) := by
  rw [intraCost_eq]
  cases met with
  | sad => rfl
  | ssd => exact Finset.sum_congr rfl fun k _ => sampleDistance_ssd _ _

/-- What `ACT` leaves where its check passes: a register write beside `ACTCOST`. -/
theorem exec_act_of_ready (met : MetricKind) (rd : Reg) {s : State} (h : coding s ∧ s.cur.valid = true) :
    let cost : Word := BitVec.ofNat 32 (intraCost met s)
    exec (.act met rd) s = .next (({ s with me := { s.me with actcost := cost } } : State).setX rd cost).advance :=
  complete_require_of (unitReady_iff s) h

/-- Settles O25: the statement's sum is the model's cost; where the one check passes, it goes to `ACTCOST` and, as a
register write, to `rd`. -/
theorem ActCommand.intraCost : Obligations.IntraCost := by
  unfold Obligations.IntraCost
  intro met rd s total mean v ready
  have hv : v = Machine.intraCost met s := by
    rw [intraCost_eq_sum, lumaMean_eq]
    rfl
  clear_value v
  subst hv
  refine ⟨?_, intraCost_le met s, fun hready => ⟨_, exec_act_of_ready met rd hready, ?_⟩,
    complete_require_stateFault (unitReady_iff s)⟩
  · cases met <;> exact encodedR_of_encode rfl rfl
  · obtain ⟨hrd, hother, -, hmem, -⟩ := wroteRegister_setX
      { s with me := { s.me with actcost := BitVec.ofNat 32 (Machine.intraCost met s) } } rd
      (BitVec.ofInt_natCast 32 (Machine.intraCost met s)).symm
    rw [BitVec.ofInt_natCast] at hrd
    refine ⟨hrd, hother, hmem, ?_⟩
    rw [State.setX_eq, ← nextCp_eq]
    rfl

end Sys2Proof.Machine

/-! SUPPORT. The motion search, `MSRCH` and `MDEC`: the least candidate of a grid, the checks and the result registers as
the statements write them (rules R190 to R200). -/

namespace Sys2Proof.Machine

/-! ### `Search` (rules R190 to R193) -/

section Search

variable (s : State) (p : Plane) (o : Vec) (met : MetricKind)

theorem mem_measuredCandidates {vs : List Vec} {c : Candidate} :
    c ∈ measuredCandidates s p o met vs ↔
      ∃ v ∈ vs, legalCandidate s o.x o.y v.x v.y ∧ c = measured s p o met v := by
  simp only [measuredCandidates, List.mem_map, List.mem_filter, isCandidate_iff, and_assoc, @eq_comm _ c]

/-- A stage of `Search`, started from a legal centre: its result is a legal vector of the grid with its own distortion,
and no other legal vector of the grid has a smaller key. -/
theorem leastKey_grid_spec {centre : Vec} (hcentre : legalCandidate s o.x o.y centre.x centre.y) (a : Int) (r : Nat) :
    let vec := fun dx dy : Int => (⟨centre.x + a * dx, centre.y + a * dy⟩ : Vec)
    let best := leastKey (measured s p o met centre) (measuredCandidates s p o met (grid centre a r))
    (∃ dx dy : Int, -r ≤ dx ∧ dx ≤ r ∧ -r ≤ dy ∧ dy ≤ r ∧ best = measured s p o met (vec dx dy) ∧
      legalCandidate s o.x o.y (vec dx dy).x (vec dx dy).y) ∧
    (∀ dx dy : Int, -r ≤ dx → dx ≤ r → -r ≤ dy → dy ≤ r →
      legalCandidate s o.x o.y (vec dx dy).x (vec dx dy).y →
      ¬keyBefore (measured s p o met (vec dx dy)) best) := by
  intro vec best
  obtain ⟨hfrom, -, hleast⟩ :=
    leastKey_spec (measured s p o met centre) (measuredCandidates s p o met (grid centre a r))
  refine ⟨?_, fun dx dy hx hx' hy hy' hlegal => hleast _ ?_⟩
  · rcases hfrom with hfirst | hmem
    · have hzero : vec 0 0 = centre := by simp [vec]
      exact ⟨0, 0, by omega, by omega, by omega, by omega, hzero ▸ hfirst, hzero ▸ hcentre⟩
    · obtain ⟨v, hv, hlegal, hbest⟩ := (mem_measuredCandidates s p o met).mp hmem
      obtain ⟨dx, dy, ⟨hx, hx'⟩, ⟨hy, hy'⟩, rfl⟩ := (mem_grid centre a r v).mp hv
      exact ⟨dx, dy, hx, hx', hy, hy', hbest, hlegal⟩
  · exact (mem_measuredCandidates s p o met).mpr
      ⟨_, (mem_grid centre a r _).mpr ⟨dx, dy, ⟨hx, hx'⟩, ⟨hy, hy'⟩, rfl⟩, hlegal, rfl⟩

/-- Stage 2 starts from the stage 1 winner, which carries its own distortion (rule R193). -/
theorem search_eq (h : searchFull s p o met = measured s p o met (searchFull s p o met).mv) :
    search s p o met = leastKey (measured s p o met (searchFull s p o met).mv)
      (measuredCandidates s p o met (grid (searchFull s p o met).mv 1 1)) := by
  rw [← h]
  rfl

end Search

/-- Settles O26: each stage is the least of a grid around a legal centre, the zero vector and then the stage 1 winner. -/
theorem searchIsLeast : Obligations.SearchIsLeast := by
  unfold Obligations.SearchIsLeast
  intro s p o met hx hy hw hh D r c b
  have hzero := (isCandidate_iff s o ⟨0, 0⟩).mp (zero_isCandidate s o ((unitInside_iff s o).mpr ⟨hx, hy, hw, hh⟩))
  have hfull := leastKey_grid_spec s p o met hzero 2 (s.cfg.sradius.toNat / 2)
  simp only [Int.zero_add] at hfull
  obtain ⟨⟨dx, dy, hdx, hdx', hdy, hdy', hc, hlegal⟩, hleast⟩ := hfull
  have hc : c = measured s p o met ⟨2 * dx, 2 * dy⟩ := hc
  have hb : b = _ := search_eq s p o met (show c = measured s p o met c.mv by rw [hc]; rfl)
  have hhalf := leastKey_grid_spec s p o met (centre := c.mv) (by rw [hc]; exact hlegal) 1 1
  simp only [Int.one_mul] at hhalf
  rw [← hb] at hhalf
  exact ⟨⟨dx, dy, hdx, hdx', hdy, hdy', hc, hlegal⟩, hleast, hhalf.1, hhalf.2⟩

/-! ### A register write beside other results -/

/-- What a completed command leaves that wrote `w` to `rd`; its other results already stand in `s` (rules R21, R140). -/
theorem setX_advance_spec (s : State) (rd : Reg) (w : Word) :
    ∃ t, (s.setX rd w).advance = t ∧
    t.x rd = (if rd = 0 then 0 else w) ∧ (∀ r : Reg, r ≠ rd → t.x r = s.x r) ∧ sameMemory s t ∧
    t = { s with regs := t.regs, cp := BitVec.ofNat 32 (s.cp.toNat + 4) } := by
  obtain ⟨hrd, hother, -, hmem, -⟩ := wroteRegister_setX s rd (ofInt_toNat w).symm
  rw [ofInt_toNat] at hrd
  refine ⟨_, rfl, hrd, hother, hmem, ?_⟩
  rw [← nextCp_eq, State.setX_eq]
  rfl

/-! ### `MSRCH` (rules R194 to R197) -/

/-- The searches a frame type allows, as the statements write it (rule R196). -/
theorem searchAllowed_iff (s : State) (dir : SearchDir) :
    searchAllowed s dir = true ↔ (dir = .forward ∧ s.frame.ftype ≠ .intra) ∨ s.frame.ftype = .bidirectional := by
  unfold searchAllowed
  cases s.frame.ftype <;> simp

/-- The luma planes of the directions used, as the statements write it (rule R197). -/
theorem mem_searchSpans_iff (s : State) (dir : SearchDir) (a : Nat) :
    (∃ sp ∈ searchSpans s dir, sp.first ≤ a ∧ a < sp.first + sp.len) ↔
      ∃ d : Dir, searchUses dir d ∧ refBase s d ≤ a ∧ a < refBase s d + lumaW s * lumaH s := by
  have hdirs : ∀ P : Dir → Prop, (∃ d, P d) ↔ P .forward ∨ P .backward := fun P =>
    ⟨fun ⟨d, h⟩ => by cases d <;> simp [h], fun h => h.elim (⟨_, ·⟩) (⟨_, ·⟩)⟩
  rw [hdirs]
  cases dir <;> simp [searchSpans, searchUses, refLuma_eq]

section SelectMode

variable {df db di : Nat}

theorem selectMode_forward (hb : df ≤ db) (hi : df ≤ di) : selectMode df db di = (df, .forward) := if_pos ⟨hb, hi⟩

theorem selectMode_backward (hf : db < df) (hi : db ≤ di) : selectMode df db di = (db, .backward) :=
  (if_neg fun h => absurd h.1 (by omega)).trans (if_pos hi)

theorem selectMode_interpolated (hf : di < df) (hb : di < db) : selectMode df db di = (di, .interpolated) :=
  (if_neg fun h => absurd h.2 (by omega)).trans (if_neg (by omega))

end SelectMode

/-- The mode and the distortion selected from the three go to `MEMODE` and `MDIST` (rule R194). -/
theorem searchResult_of_selectMode {s : State} {met : MetricKind} {o : Vec} {d : Nat} {mode : CodingMode}
    (h : selectMode (search s (refLuma s .forward) o met).dist (search s (refLuma s .backward) o met).dist
      (interpolatedDistortion s o met (search s (refLuma s .forward) o met).mv
        (search s (refLuma s .backward) o met).mv) = (d, mode)) :
    (searchResult s met .bidirectional o).memode = mode ∧
    (searchResult s met .bidirectional o).mdist = BitVec.ofNat 32 d :=
  ⟨congrArg Prod.snd h, congrArg (fun sel : Nat × CodingMode => BitVec.ofNat 32 sel.1) h⟩

/-- No word with direction 3 is an `MSRCH`, or any command (rule R117). -/
theorem decodeWord_ne_ok_of_badDirection {w : Word} (hop : opField w = 0x14) (hdir : (w.extractLsb' 0 2).toNat = 3)
    (i : Instr) : decodeWord w ≠ .ok i := by
  intro h
  obtain ⟨-, hlegal, -⟩ := valuesLegal_of_decodeWord h
  exact hlegal hop hdir

/-- Settles O28: the four checks in their order; where they pass, the result registers of each branch, and a register
write beside them. -/
theorem motionSearch : Obligations.MotionSearch := by
  unfold Obligations.MotionSearch
  refine ⟨fun w => decodeWord_ne_ok_of_badDirection, ?_⟩
  intro met dir rd ra s o plane ready allowed placed touched f b di i
  have ready_iff : _ ↔ ready := unitReady_iff s
  have allowed_iff : _ ↔ allowed := searchAllowed_iff s dir
  have placed_iff : _ ↔ placed := unitInside_iff s o
  have touched_iff : ∀ a, _ ↔ touched a := mem_searchSpans_iff s dir
  -- what is left to check after each of the first three
  have after1 : ready → exec i s = complete s _ := complete_require_of ready_iff
  have after2 := fun h1 h2 => (after1 h1).trans (complete_require_of allowed_iff h2)
  have after3 := fun h1 h2 h3 => (after2 h1 h2).trans (complete_require_of placed_iff h3)
  refine ⟨?_, fun h1 h2 h3 hexist => ?_, complete_require_stateFault ready_iff, fun h1 hnot => ?_,
    fun h1 h2 hnot => (after2 h1 h2).trans (complete_require_of_not placed_iff hnot),
    fun a h1 h2 h3 hmissing => (after3 h1 h2 h3).trans (complete_requireInMemory_of_missing touched_iff hmissing)⟩
  · cases met <;> cases dir <;> exact encodedR_of_encode rfl rfl
  · obtain ⟨t, ht, hrd, hother, hmem, hframe⟩ :=
      setX_advance_spec { s with me := searchResult s met dir o } rd (searchResult s met dir o).mdist
    have hdone : exec i s = .next t :=
      ((after3 h1 h2 h3).trans (complete_requireInMemory_of_exist touched_iff hexist)).trans (congrArg _ ht)
    have hme : t.me = searchResult s met dir o := congrArg State.me hframe
    refine ⟨t, hdone, ?_⟩
    rw [hme]
    refine ⟨hrd, hother, hmem, hframe, ?_, ?_, ?_⟩
    · rintro rfl; rfl
    · rintro rfl; rfl
    · rintro rfl
      exact ⟨rfl, fun hb hi => searchResult_of_selectMode (selectMode_forward hb hi),
        fun hf hi => searchResult_of_selectMode (selectMode_backward hf hi),
        fun hf hb => searchResult_of_selectMode (selectMode_interpolated hf hb)⟩
  · have hfault := (after1 h1).trans (complete_require_of_not allowed_iff hnot)
    cases dir <;> exact hfault

/-! ### `MDEC` (rule R200) -/

/-- What `MDEC` leaves where its check passes: a register write beside the flag `Z`. -/
theorem exec_mdec_of_coding (rd : Reg) {s : State} (h : coding s) :
    exec (.mdec rd) s = .next (({ s with flags := { s.flags with z := decide (decideMode s = .intra) } } : State).setX rd
      ((modeCode (decideMode s)).setWidth 32)).advance :=
  complete_require_of (inFrame_iff s) h

/-- Settles O29: the statement's mode is the model's; where the one check passes, its number goes to `rd` and whether it
is Intra to `Z`. -/
theorem modeDecision : Obligations.ModeDecision := by
  unfold Obligations.ModeDecision
  intro rd s mode
  have hmode : mode = decideMode s := rfl
  clear_value mode
  subst hmode
  refine ⟨encodedR_of_encode rfl rfl, fun hcoding => ?_, complete_require_stateFault (inFrame_iff s)⟩
  obtain ⟨t, ht, hrd, hother, hmem, hframe⟩ := setX_advance_spec
    { s with flags := { s.flags with z := decide (decideMode s = .intra) } } rd ((modeCode (decideMode s)).setWidth 32)
  refine ⟨t, (exec_mdec_of_coding rd hcoding).trans (congrArg _ ht), ?_, hother, hmem, hframe⟩
  rw [hrd]
  cases decideMode s <;> rfl

end Sys2Proof.Machine

/-! SUPPORT. Quantization by coefficient, the predictors along a pass, the escalation's end, dequantization (rules R220,
R223, R225 to R227, R230). -/

namespace Sys2Proof.Machine

/-! ### One block by index (rules R220, R225, R227) -/

/-- Only the DC coefficient is moved. -/
theorem addDc_getD (v : Int) {l : List Int} {p : Nat} (hp : p < l.length) :
    (addDc v l).getD p 0 = l.getD p 0 + if p = 0 then v else 0 := by
  cases l with
  | nil => exact absurd hp (Nat.not_lt_zero p)
  | cons c rest => cases p <;> simp [addDc]

/-- The quantized level of a coefficient (rule R220). -/
theorem quantize_getD {qm : List Nat} (q : Nat) {f : List Int} {p : Nat} (hf : p < f.length) (hqm : p < qm.length) :
    (quantize qm q f).getD p 0 = rdiv (16 * f.getD p 0) (qm.getD p 0 * q) :=
  getD_zipWith _ 0 0 0 hf hqm

theorem clampLevel_eq (e : Int) : clampLevel e = max (-255) (min e 255) := by
  unfold clampLevel clamp levelMax
  split
  · omega
  · split <;> omega

/-- A function that keeps 0 applied along a list, read by index. -/
theorem getD_map_of_zero {g : Int → Int} (hg : g 0 = 0) (l : List Int) (p : Nat) :
    (l.map g).getD p 0 = g (l.getD p 0) := by
  simp only [List.getD_eq_getElem?_getD, List.getElem?_map]
  cases l[p]? with
  | none => exact hg.symm
  | some c => rfl

theorem headD_eq_getD_zero {α : Type} (l : List α) (d : α) : l.headD d = l.getD 0 d := by
  cases l <;> rfl

theorem overflows_iff (e : Int) : overflows e = true ↔ 255 < e.natAbs := decide_eq_true_iff

/-- What holds of some entry of a list holds of an entry by index. -/
theorem any_iff_exists_getD {l : List Int} {n : Nat} (hl : l.length = n) (P : Int → Bool) :
    l.any P = true ↔ ∃ p, p < n ∧ P (l.getD p 0) = true := by
  subst hl
  rw [List.any_eq_true]
  constructor
  · rintro ⟨v, hv, hP⟩
    obtain ⟨p, hp, rfl⟩ := List.getElem_of_mem hv
    exact ⟨p, hp, by rwa [List.getD_eq_getElem _ _ hp]⟩
  · rintro ⟨p, hp, hP⟩
    rw [List.getD_eq_getElem _ _ hp] at hP
    exact ⟨_, List.getElem_mem hp, hP⟩

/-- The levels of a block less the DC level, before the clamp (rules R225, R227). -/
def rawLevels (intra : Bool) (qm : List Nat) (q : Nat) (f : List Int) (pred : Word) : List Int :=
  addDc (-dcLevel intra qm q pred) (quantize qm q f)

section Block

variable (intra clampIt : Bool) (qm : List Nat) (q : Nat) (f : List Int) (pred : Word)

theorem quantBlock_coded : (quantBlock intra qm q clampIt f pred).coded =
    if clampIt then (rawLevels intra qm q f pred).map clampLevel else rawLevels intra qm q f pred := rfl

theorem quantBlock_effective : (quantBlock intra qm q clampIt f pred).effective =
    addDc (dcLevel intra qm q pred) (quantBlock intra qm q clampIt f pred).coded := rfl

theorem quantBlock_overflow : (quantBlock intra qm q clampIt f pred).overflow =
    (rawLevels intra qm q f pred).any overflows := rfl

theorem quantBlock_pred : (quantBlock intra qm q clampIt f pred).pred =
    if intra then BitVec.ofInt 32 ((quantBlock intra qm q clampIt f pred).effective.getD 0 0 * (qm.getD 0 0 * q : Nat))
    else pred := by
  rw [← headD_eq_getD_zero, ← headD_eq_getD_zero]
  rfl

theorem dcLevel_eq : dcLevel intra qm q pred = if intra then rdiv pred.toInt (qm.getD 0 0 * q) else 0 := by
  rw [dcLevel, headD_eq_getD_zero]

theorem rawLevels_length : (rawLevels intra qm q f pred).length = min f.length qm.length := by
  rw [rawLevels, addDc_length, quantize_length]

theorem quantBlock_coded_length : (quantBlock intra qm q clampIt f pred).coded.length = min f.length qm.length := by
  rw [quantBlock_coded]
  split
  · rw [List.length_map, rawLevels_length]
  · exact rawLevels_length ..

theorem quantBlock_coded_getD (p : Nat) : (quantBlock intra qm q clampIt f pred).coded.getD p 0 =
    if clampIt then max (-255) (min ((rawLevels intra qm q f pred).getD p 0) 255)
    else (rawLevels intra qm q f pred).getD p 0 := by
  rw [quantBlock_coded]
  split
  · rw [getD_map_of_zero (by decide), clampLevel_eq]
  · rfl

variable {qm f}

theorem rawLevels_getD {p : Nat} (hf : p < f.length) (hqm : p < qm.length) : (rawLevels intra qm q f pred).getD p 0 =
    rdiv (16 * f.getD p 0) (qm.getD p 0 * q) - if p = 0 then dcLevel intra qm q pred else 0 := by
  rw [rawLevels, addDc_getD _ (by rw [quantize_length]; omega), quantize_getD q hf hqm]
  split <;> ring

theorem quantBlock_effective_getD {p : Nat} (hf : p < f.length) (hqm : p < qm.length) :
    (quantBlock intra qm q clampIt f pred).effective.getD p 0 =
      (quantBlock intra qm q clampIt f pred).coded.getD p 0 + if p = 0 then dcLevel intra qm q pred else 0 := by
  rw [quantBlock_effective, addDc_getD _ (by rw [quantBlock_coded_length]; omega)]

/-- Overflow is tested on the levels before the clamp (rule R223). -/
theorem quantBlock_overflow_iff (hf : f.length = 64) (hqm : qm.length = 64) :
    (quantBlock intra qm q clampIt f pred).overflow = true ↔
      ∃ p, p < 64 ∧ 255 < ((rawLevels intra qm q f pred).getD p 0).natAbs := by
  rw [quantBlock_overflow, any_iff_exists_getD (by rw [rawLevels_length, hf, hqm, Nat.min_self])]
  simp only [overflows_iff]

end Block

/-! ### The predictors along a pass (rules R225, R227) -/

section Pass

variable (intra clampIt : Bool) (qm : List Nat) (q : Nat) (blocks : List (Component × List Int)) (d : DcPredictors)

/-- The predictors before block `k` of a pass: those the pass over the blocks before it ends with. -/
def predsBefore (k : Nat) : DcPredictors := (quantPass intra qm q clampIt (blocks.take k) d).preds

/-- A pass over two runs of blocks is a pass over the first and one over the second from where the first ended. -/
theorem quantPass_append (rest : List (Component × List Int)) :
    quantPass intra qm q clampIt (blocks ++ rest) d =
      (let r := quantPass intra qm q clampIt blocks d
       let r' := quantPass intra qm q clampIt rest r.preds
       ⟨r.coded ++ r'.coded, r.effective ++ r'.effective, r'.preds, r.overflow || r'.overflow⟩) := by
  induction blocks generalizing d with
  | nil => simp [quantPass]
  | cons b blocks ih =>
    obtain ⟨c, f⟩ := b
    simp [quantPass_cons, ih, Bool.or_assoc]

variable {blocks}

/-- What a pass does at block `k`, from the predictors before it. -/
theorem quantPass_at {k : Nat} {c : Component} {f : List Int} (h : blocks[k]? = some (c, f)) :
    let r := quantPass intra qm q clampIt blocks d
    let before := predsBefore intra clampIt qm q blocks d k
    let b := quantBlock intra qm q clampIt f (before.get c)
    r.coded[k]? = some b.coded ∧ r.effective[k]? = some b.effective ∧
      predsBefore intra clampIt qm q blocks d (k + 1) = before.set c b.pred ∧
      (b.overflow = true → r.overflow = true) := by
  obtain ⟨hk, hget⟩ := List.getElem?_eq_some_iff.mp h
  have hsplit : blocks = blocks.take k ++ (c, f) :: blocks.drop (k + 1) := by
    rw [← hget, List.getElem_cons_drop, List.take_append_drop]
  obtain ⟨hcoded, heffective⟩ := quantPass_length intra clampIt qm q (blocks.take k) d
  rw [List.length_take, Nat.min_eq_left hk.le] at hcoded heffective
  intro r before b
  have hr : r = quantPass intra qm q clampIt (blocks.take k ++ (c, f) :: blocks.drop (k + 1)) d := by rw [← hsplit]
  rw [quantPass_append] at hr
  refine ⟨?_, ?_, ?_, fun hover => ?_⟩
  · rw [hr]; simp [quantPass_cons, hcoded, b, before, predsBefore]
  · rw [hr]; simp [quantPass_cons, heffective, b, before, predsBefore]
  · rw [predsBefore, List.take_add_one, h, quantPass_append]; rfl
  · have hover' : (quantBlock intra qm q clampIt f
        ((quantPass intra qm q clampIt (blocks.take k) d).preds.get c)).overflow = true := hover
    rw [hr]; simp [quantPass_cons, hover']

/-- A pass that overflows has a block that does. -/
theorem exists_overflow_of_quantPass (h : (quantPass intra qm q clampIt blocks d).overflow = true) :
    ∃ k c f, blocks[k]? = some (c, f) ∧
      (quantBlock intra qm q clampIt f ((predsBefore intra clampIt qm q blocks d k).get c)).overflow = true := by
  induction blocks generalizing d with
  | nil => cases h
  | cons b blocks ih =>
    obtain ⟨c, f⟩ := b
    rw [quantPass_cons, Bool.or_eq_true] at h
    rcases h with hfirst | hrest
    · exact ⟨0, c, f, rfl, hfirst⟩
    · obtain ⟨k, c', f', hk, hover⟩ := ih _ hrest
      exact ⟨k + 1, c', f', hk, hover⟩

end Pass

/-- Settles O33: each block by index, then the pass block by block from the predictors before each. -/
theorem quantizerPass : Obligations.QuantizerPass := by
  unfold Obligations.QuantizerPass
  refine ⟨fun intra clampIt qm q f pred hqm hf => ?_, fun intra clampIt qm q blocks d0 => ?_⟩
  · intro step0 P raw b
    have hP : dcLevel intra qm q pred = P := dcLevel_eq intra qm q pred
    have hraw : ∀ p, p < 64 → (rawLevels intra qm q f pred).getD p 0 = raw p := fun p hp => by
      rw [rawLevels_getD intra q pred (by omega) (by omega), hP]
    have hcoded : b.coded.length = 64 := by rw [quantBlock_coded_length, hf, hqm, Nat.min_self]
    refine ⟨hcoded, ?_, fun p hp => ?_, fun p hp => ?_, ?_, quantBlock_pred intra clampIt qm q f pred⟩
    · rw [quantBlock_effective, addDc_length, hcoded]
    · rw [quantBlock_coded_getD, hraw p hp]
    · rw [quantBlock_effective_getD intra clampIt q pred (by omega) (by omega), hP]
    · rw [quantBlock_overflow_iff intra clampIt q pred hf hqm]
      exact exists_congr fun p => and_congr_right fun hp => by rw [hraw p hp]
  · intro own r
    have hown : ∀ (d : DcPredictors) (c : Component), own d c = d.get c := fun d c => by cases c <;> rfl
    obtain ⟨hcoded, heffective⟩ := quantPass_length intra clampIt qm q blocks d0
    refine ⟨hcoded, heffective, predsBefore intra clampIt qm q blocks d0, rfl, ?_, fun k c f hk => ?_, fun hover => ?_⟩
    · rw [predsBefore, List.take_length]
    · obtain ⟨hc, he, hset, hover⟩ := quantPass_at intra clampIt qm q d0 hk
      rw [hown]
      exact ⟨hc, he, hset.trans (by cases c <;> rfl), hover⟩
    · simp only [hown]
      exact exists_overflow_of_quantPass intra clampIt qm q d0 hover

/-! ### The end of the escalation (rule R226) -/

/-- From scale `31 - n` on, the escalation passes over scales that overflow alone, and reports exhaustion only where
scale 31 overflows as well. -/
theorem escalate_scale (intra : Bool) (qm : List Nat) (blocks : List (Component × List Int)) (d : DcPredictors)
    (n : Nat) :
    let u := escalate intra qm blocks d n
    scaleMax - n ≤ u.scale ∧ u.scale ≤ scaleMax ∧
      (∀ q, scaleMax - n ≤ q → q < u.scale → (quantPass intra qm q false blocks d).overflow = true) ∧
      (u.exhausted = true → u.scale = scaleMax ∧ (quantPass intra qm scaleMax false blocks d).overflow = true) := by
  induction n with
  | zero =>
    simp only [escalate]
    split
    · next hover => exact ⟨le_rfl, le_rfl, fun q h h' => absurd h' (Nat.not_lt.mpr h), fun _ => ⟨rfl, hover⟩⟩
    · exact ⟨le_rfl, le_rfl, fun q h h' => absurd h' (Nat.not_lt.mpr h), fun h => by cases h⟩
  | succ n ih =>
    simp only [escalate]
    split
    · next hover =>
      obtain ⟨hlow, hhigh, hbefore, hend⟩ := ih
      refine ⟨by omega, hhigh, fun q h h' => ?_, hend⟩
      rcases Nat.eq_or_lt_of_le h with rfl | hlt
      · exact hover
      · exact hbefore q (by omega) h'
    · exact ⟨le_rfl, Nat.sub_le .., fun q h h' => absurd h' (Nat.not_lt.mpr h), fun h => by cases h⟩

/-- Settles O34: the scales passed over and the pass at the end, each by induction on the steps left to 31. -/
theorem escalation : Obligations.Escalation := by
  unfold Obligations.Escalation
  intro s mode pred pass u
  have hresult : u.result = pass u.scale u.exhausted := escalate_result ..
  have hend : u.exhausted = true ∨ u.result.overflow = false := escalate_exhausted_or_fits ..
  obtain ⟨hlow, hhigh, hbefore, hexhausted⟩ : _ ∧ u.scale ≤ 31 ∧ _ ∧ (u.exhausted = true → u.scale = 31 ∧ _) :=
    escalate_scale (mode == .intra) (quantMatrix s) (unitCoefficients s pred) (dcPredictors s)
      (scaleMax - s.quant.qscale.toNat)
  have hstart : scaleMax - (scaleMax - s.quant.qscale.toNat) = s.quant.qscale.toNat :=
    Nat.sub_sub_self (Nat.le_of_lt_succ s.quant.qscale.isLt)
  rw [hstart] at hlow hbefore
  refine ⟨hlow, hhigh, hbefore, fun h => ?_, fun h => ?_, quantizeUnit_coded_bound s mode pred⟩
  · rw [h] at hresult hend
    exact ⟨hresult, hend.resolve_left Bool.false_ne_true⟩
  · obtain ⟨hscale, hover⟩ := hexhausted h
    exact ⟨hscale, hover, by rw [hresult, hscale, h]⟩

/-! ### Dequantization and reconstruction (rule R230) -/

/-- Settles O36: dequantization level by level, reconstruction sample by sample. -/
theorem reconstruction : Obligations.Reconstruction := by
  unfold Obligations.Reconstruction
  intro xform qm q pred leff hqm hpred hleff _
  refine ⟨by rw [dequantize_length, hleff, hqm, Nat.min_self], fun p hp => ?_, reconstruct_length _ _ _ _ hpred,
    fun p hp => reconstruct_getD _ _ _ _ hpred hp⟩
  rw [dequantize_eq_map_range q hqm hleff, getD_map_range _ _ _ _ hp]

end Sys2Proof.Machine

/-! SUPPORT. `TQMB` where its checks pass: the registers, flags and counters it writes, and the bytes it leaves alone
(rules R210, R226, R231, R233). -/

namespace Sys2Proof.Machine

/-! ### The bytes left alone (rule R231) -/

/-- A byte that no cell names is left as it was. -/
theorem Memory.read_writeCells_other (m : Memory) {l : List Host.Cell} {a : Nat} (h : ∀ c ∈ l, c.1 ≠ a) :
    (m.writeCells l).read a = m.read a := by
  induction l generalizing m with
  | nil => rfl
  | cons c l ih =>
    rw [List.forall_mem_cons] at h
    rw [Memory.writeCells_cons, ih _ h.2, Memory.read_write_other _ _ h.1.symm]

/-- Every sample of a unit is stored within the unit's area (rules R12, R213, R231). -/
theorem unitAddress_samplePlace (s : State) {n : Nat} (hn : n < 384) :
    unitAddress s s.cfg.recY s.cfg.recCb s.cfg.recCr (lo16s s.cur.pos).toNat (hi16s s.cur.pos).toNat
      (samplePlace s n) := by
  unfold samplePlace
  dsimp only
  split
  · exact .inl ⟨8 * (n / 64 / 2) + n % 64 / 8, 8 * (n / 64 % 2) + n % 8, by omega, by omega, by
      simp only [Nat.add_assoc]⟩
  · have hplace : ∀ base : Word, blockAddress base.toNat (chromaW s) ((lo16s s.cur.pos).toNat / 2)
        ((hi16s s.cur.pos).toNat / 2) 8 8 (base.toNat + ((hi16s s.cur.pos).toNat / 2 + n % 64 / 8) * chromaW s +
          ((lo16s s.cur.pos).toNat / 2 + n % 8)) := fun base =>
      ⟨n % 64 / 8, n % 8, by omega, by omega, (Nat.add_assoc ..).symm⟩
    split
    · exact .inr (.inl (hplace _))
    · exact .inr (.inr (hplace _))

/-- `TQMB` writes no byte outside the unit's area (rule R231). -/
theorem tqmbResult_mem_other (s : State) (mode : CodingMode) {a : Nat}
    (h : ¬unitAddress s s.cfg.recY s.cfg.recCb s.cfg.recCr (lo16s s.cur.pos).toNat (hi16s s.cur.pos).toNat a) :
    (tqmbResult s mode).mem.read a = s.mem.read a := by
  rw [tqmbResult_mem]
  refine Memory.read_writeCells_other _ fun c hc hca => h ?_
  obtain ⟨n, hn, rfl⟩ := List.mem_map.mp hc
  rw [← hca]
  exact unitAddress_samplePlace s (List.mem_range.mp hn)

/-! ### The registers written (rule R233 steps 10 to 15) -/

/-- The state a coded unit leaves, `CP` apart, as one update of the state. -/
theorem commitUnit_eq (s : State) (mode : CodingMode) (pos : Vec) (pred : UnitSamples) (u : UnitQuant) :
    commitUnit s mode pos pred u =
      { s with
        mem := storeUnit s.mem (recPlanes s) pos.x.toNat pos.y.toNat (reconstructUnit s pred u)
        qc := levelStore u.result.coded
        quant :=
          { qscale := BitVec.ofNat 5 u.scale
            mbq := BitVec.ofNat 5 u.scale
            prevq := s.quant.prevq
            exhcnt := s.quant.exhcnt + if u.exhausted then 1 else 0
            esccnt := s.quant.esccnt + BitVec.ofNat 32 (u.scale - s.quant.qscale.toNat)
            dcpy := if mode == .intra then u.result.preds.y else s.quant.dcpy
            dcpcb := if mode == .intra then u.result.preds.cb else s.quant.dcpcb
            dcpcr := if mode == .intra then u.result.preds.cr else s.quant.dcpcr }
        mb :=
          { s.mb with
            mode := mode
            mvf := if modeUses mode .forward then s.me.mvf else s.mb.mvf
            mvb := if modeUses mode .backward then s.me.mvb else s.mb.mvb }
        flags := { s.flags with esc := decide (s.quant.qscale.toNat < u.scale), exh := u.exhausted }
        frame := { s.frame with uphase := true, fs := .encoding }
        irq := { s.irq with status := s.irq.status ||| if u.exhausted then 4 else 0 } } := by
  unfold commitUnit
  cases u.exhausted with
  | true => rfl
  | false => simp

/-- The register holds the scale a unit is coded with. -/
theorem toNat_quantizeUnit_scale (s : State) (mode : CodingMode) (pred : UnitSamples) :
    (BitVec.ofNat 5 (quantizeUnit s mode pred).scale).toNat = (quantizeUnit s mode pred).scale := by
  obtain ⟨-, hle, -⟩ := escalate_scale (mode == .intra) (quantMatrix s) (unitCoefficients s pred) (dcPredictors s)
    (scaleMax - s.quant.qscale.toNat)
  rw [BitVec.toNat_ofNat]
  exact Nat.mod_eq_of_lt (Nat.lt_succ_of_le hle)

/-- Settles O37: where the checks pass, `TQMB` leaves the state of `commitUnit_eq`, read register by register. -/
theorem transformUnit : Obligations.TransformUnit := by
  unfold Obligations.TransformUnit
  intro mode s pos usesF usesB stored pred u
  refine ⟨by cases mode <;> exact encodedR_of_encode rfl rfl, fun hpass => ?_⟩
  have hexec := exec_tqmb_of_passes hpass
  have hother := fun a => tqmbResult_mem_other s mode (a := a)
  rw [show tqmbResult s mode = _ from commitUnit_eq s mode pos pred u] at hexec hother
  have hscale := toNat_quantizeUnit_scale s mode pred
  refine ⟨_, hexec, fun k n => levelStore_getElem _ k n, hscale, hscale, rfl, rfl, ?_, ?_, rfl, fun h => ?_, fun h => ?_,
    fun h => ?_, fun h => ?_, rfl, rfl, rfl, rfl, rfl, hother, ?_⟩
  · show (s.quant.esccnt + BitVec.ofNat 32 _).toNat = _
    rw [BitVec.toNat_add, BitVec.toNat_ofNat, Nat.add_mod_mod]
  · cases mode <;> rfl
  · exact if_pos ((modeUses_forward_iff mode).mpr h)
  · exact if_neg fun huses => h ((modeUses_forward_iff mode).mp huses)
  · exact if_pos ((modeUses_backward_iff mode).mpr h)
  · exact if_neg fun huses => h ((modeUses_backward_iff mode).mp huses)
  · rw [← nextCp_eq]
    rfl

end Sys2Proof.Machine

/-! SUPPORT. Linearity and bounds of the double sums, constant blocks, the zigzag walk (rules R212, R216, R219, R222). -/

namespace Sys2Proof.Machine

/-! ### Inner products -/

theorem dot_comm (a b : List Int) : dot a b = dot b a := by
  rw [dot, dot, List.zipWith_comm_of_comm (fun x y => mul_comm x y)]

@[simp] theorem dot_cons (x y : Int) (a b : List Int) : dot (x :: a) (y :: b) = x * y + dot a b := by
  simp [dot]

/-- An inner product is odd in its second row. -/
theorem dot_neg_right {α : Type} (a : List Int) (l : List α) (g : α → Int) :
    dot a (l.map fun x => -g x) = -dot a (l.map g) := by
  induction l generalizing a with
  | nil => simp [dot]
  | cons x l ih =>
    cases a with
    | nil => simp [dot]
    | cons y a => rw [List.map_cons, List.map_cons, dot_cons, dot_cons, ih]; ring

theorem dot_map_neg (a b : List Int) : dot (a.map fun v => -v) b = -dot a b := by
  rw [dot_comm, dot_neg_right, List.map_id', dot_comm]

/-- The sum of the magnitudes of a row: what an inner product with it multiplies a bound by. -/
def rowNorm (row : List Int) : Nat := (row.map Int.natAbs).sum

@[simp] theorem rowNorm_cons (x : Int) (row : List Int) : rowNorm (x :: row) = x.natAbs + rowNorm row := by
  simp [rowNorm]

/-- An inner product with a row of values within a bound is within the bound times the row's norm. -/
theorem dot_natAbs_le {a : List Int} {B : Nat} (ha : ∀ v ∈ a, v.natAbs ≤ B) (row : List Int) :
    (dot a row).natAbs ≤ B * rowNorm row := by
  induction a generalizing row with
  | nil => simp [dot]
  | cons x a ih =>
    cases row with
    | nil => simp [dot]
    | cons y row =>
      rw [List.forall_mem_cons] at ha
      calc (dot (x :: a) (y :: row)).natAbs ≤ (x * y).natAbs + (dot a row).natAbs := by
            rw [dot_cons]; exact Int.natAbs_add_le _ _
        _ ≤ B * y.natAbs + B * rowNorm row := by
            rw [Int.natAbs_mul]; exact Nat.add_le_add (Nat.mul_le_mul_right _ ha.1) (ih ha.2 row)
        _ = B * rowNorm (y :: row) := by rw [rowNorm_cons, Nat.mul_add]

/-! ### The double sums are odd and bounded -/

theorem blockRows_map (x : List Int) (g : Int → Int) : blockRows (x.map g) = (blockRows x).map (List.map g) := by
  simp [blockRows, Function.comp_def]

theorem doubleSums_map_neg (m : List (List Int)) (x : List Int) :
    doubleSums m (x.map fun v => -v) = (doubleSums m x).map fun v => -v := by
  simp only [doubleSums, blockRows_map, List.map_flatMap, List.map_map, Function.comp_def, dot_map_neg, dot_neg_right]

/-- Double sums of values within a bound, over a matrix whose rows have norms within `N`. -/
theorem doubleSums_natAbs_le {m : List (List Int)} {x : List Int} {B N : Nat} (hm : ∀ row ∈ m, rowNorm row ≤ N)
    (hx : ∀ v ∈ x, v.natAbs ≤ B) : ∀ t ∈ doubleSums m x, t.natAbs ≤ B * N * N := by
  intro t ht
  simp only [doubleSums, List.mem_flatMap, List.mem_map] at ht
  obtain ⟨mu, hmu, col, ⟨mv, hmv, rfl⟩, rfl⟩ := ht
  have hcol : ∀ v ∈ (blockRows x).map fun row => dot row mv, v.natAbs ≤ B * N := by
    intro v hv
    obtain ⟨row, hrow, rfl⟩ := List.mem_map.mp hv
    obtain ⟨i, -, rfl⟩ := List.mem_map.mp hrow
    have hmem : ∀ w ∈ (x.drop (8 * i)).take 8, w.natAbs ≤ B := fun w hw =>
      hx w (List.mem_of_mem_drop (List.mem_of_mem_take hw))
    exact (dot_natAbs_le hmem mv).trans (Nat.mul_le_mul_left B (hm mv hmv))
  rw [dot_comm]
  exact (dot_natAbs_le hcol mu).trans (Nat.mul_le_mul_left _ (hm mu hmu))

/-! ### The forward transforms (rules R212, R216, R219) -/

theorem forwardTransform_map_neg (xform : Bool) (x : List Int) :
    forwardTransform xform (x.map fun v => -v) = (forwardTransform xform x).map fun v => -v := by
  simp only [forwardTransform_eq, doubleSums_map_neg, List.map_map, Function.comp_def, rdiv_neg]

/-- What the rows of a transform's table have at most for norm: that of the row of equal entries. -/
def transformNorm (xform : Bool) : Nat := if xform then 8 else 11584

theorem rowNorm_transformMatrix_le (xform : Bool) :
    ∀ row ∈ transformMatrix xform, rowNorm row ≤ transformNorm xform := by
  cases xform <;> decide

theorem transformScale_pos (xform : Bool) : 0 < transformScale xform := by
  cases xform <;> decide

/-- Rounded once, double sums of samples up to 255 in magnitude stay within 2040 (rule R219). -/
theorem rdiv_transformScale_le (xform : Bool) {t : Int}
    (ht : t.natAbs ≤ 255 * transformNorm xform * transformNorm xform) :
    (rdiv t (transformScale xform)).natAbs ≤ 2040 := by
  have herror := rdiv_error t (transformScale_pos xform)
  cases xform with
  | false | true =>
    norm_num [transformNorm, transformScale] at ht herror ⊢
    omega

theorem forwardTransform_natAbs_le (xform : Bool) {x : List Int} (hx : ∀ v ∈ x, v.natAbs ≤ 255) :
    ∀ f ∈ forwardTransform xform x, f.natAbs ≤ 2040 := by
  intro f hf
  rw [forwardTransform_eq] at hf
  obtain ⟨t, ht, rfl⟩ := List.mem_map.mp hf
  exact rdiv_transformScale_le xform (doubleSums_natAbs_le (rowNorm_transformMatrix_le xform) hx t ht)

/-- Only the first row of a transform's table has a sum other than 0. -/
theorem sum_entry_transformMatrix (xform : Bool) : ∀ u < 8,
    ∑ i ∈ Finset.range 8, entry (transformMatrix xform) u i = if u = 0 then (transformNorm xform : Int) else 0 := by
  cases xform <;> decide

/-- The double sum of a constant block is the product of two row sums. -/
theorem sum_constant_block (M : Nat → Nat → Int) (c : Int) (u v : Nat) :
    ∑ i ∈ Finset.range 8, ∑ j ∈ Finset.range 8, M u i * c * M v j =
      (∑ i ∈ Finset.range 8, M u i) * c * ∑ j ∈ Finset.range 8, M v j := by
  rw [Finset.sum_mul, Finset.sum_mul_sum]

/-- The DC coefficient of a constant block: the DCT's table is rounded, and the error stays below a half (rule R219). -/
theorem rdiv_constant_block (xform : Bool) {c : Int} (hlow : -255 ≤ c) (hhigh : c ≤ 255) :
    rdiv (transformNorm xform * c * transformNorm xform) (transformScale xform) = 8 * c := by
  have herror := rdiv_error (transformNorm xform * c * transformNorm xform) (transformScale_pos xform)
  cases xform with
  | false | true =>
    norm_num [transformNorm, transformScale] at herror ⊢
    omega

/-- A block that is 0 but for its first sample. -/
theorem rasterBlock_corner (w : Int) :
    rasterBlock 8 (fun u v => if u = 0 ∧ v = 0 then w else 0) = w :: List.replicate 63 0 := rfl

theorem forwardTransform_replicate (xform : Bool) {c : Int} (hlow : -255 ≤ c) (hhigh : c ≤ 255) :
    forwardTransform xform (List.replicate 64 c) = 8 * c :: List.replicate 63 0 := by
  have hblock : List.replicate 64 c = rasterBlock 8 fun _ _ => c := rfl
  rw [hblock, forwardTransform_rasterBlock, ← rasterBlock_corner, rasterBlock, rasterBlock]
  refine List.map_congr_left fun k hk => ?_
  have hk : k < 64 := List.mem_range.mp hk
  rw [sum_constant_block, sum_entry_transformMatrix xform _ (by omega), sum_entry_transformMatrix xform _ (by omega)]
  by_cases hu : k / 8 = 0
  · by_cases hv : k % 8 = 0
    · rw [if_pos hu, if_pos hv, if_pos ⟨hu, hv⟩, rdiv_constant_block xform hlow hhigh]
    · rw [if_neg hv, if_neg (not_and_of_not_right _ hv), mul_zero, rdiv_zero]
  · rw [if_neg hu, if_neg (not_and_of_not_left _ hu), zero_mul, zero_mul, rdiv_zero]

/-! ### The zigzag scan (rule R222) -/

theorem zigzag_perm : zigzag.Perm (List.range 64) := by decide

/-- Each step of the scan stays on its anti-diagonal, or leaves one that has been walked whole. -/
theorem zigzag_walk : ∀ n, n < 63 →
    let p := zigzag.getD n 0
    let p' := zigzag.getD (n + 1) 0
    let s := p / 8 + p % 8
    (p' / 8 + p' % 8 = s ∧ (if s % 2 = 1 then p' / 8 = p / 8 + 1 else p' / 8 + 1 = p / 8)) ∨
    (p' / 8 + p' % 8 = s + 1 ∧ ∀ k, k < 64 → k / 8 + k % 8 = s → k ∈ zigzag.take (n + 1)) := by
  decide

/-- Settles O32: oddness and bounds through the double sums, constant blocks by row sums, the scan by its table. -/
theorem transformFacts : Obligations.TransformFacts := by
  unfold Obligations.TransformFacts
  exact ⟨fun xform _ => forwardTransform_replicate xform, forwardTransform_map_neg,
    fun xform _ => forwardTransform_natAbs_le xform, zigzag_perm, zigzag_walk⟩

end Sys2Proof.Machine

/-! SUPPORT. Numbers as bit strings and the codes made of them: the value of a string of `bin`, the code of a signed
integer read back, the code of a pair and of a block (rules R8, R256 to R260). -/

namespace Sys2Proof.Machine

/-! ### Numbers as bit strings (rule R8) -/

@[simp] theorem length_bin (n v : Nat) : (bin n v).length = n := by simp [bin]

/-- The most significant bit comes first. -/
theorem bin_succ (n v : Nat) : bin (n + 1) v = v.testBit n :: bin n v := by
  simp [bin, List.range_succ_eq_map, Function.comp_def, Nat.sub_sub, Nat.add_comm]

theorem foldl_bits_eq (acc : Nat) (l : List Bool) :
    l.foldl (fun acc b => 2 * acc + b.toNat) acc = acc * 2 ^ l.length + bitsValue l := by
  induction l generalizing acc with
  | nil => simp [bitsValue]
  | cons b l ih =>
    rw [bitsValue, List.foldl_cons, List.foldl_cons, ih, ih, List.length_cons]
    ring

theorem bitsValue_cons (b : Bool) (l : List Bool) : bitsValue (b :: l) = b.toNat * 2 ^ l.length + bitsValue l := by
  rw [bitsValue, List.foldl_cons, foldl_bits_eq, Nat.mul_zero, Nat.zero_add]

/-- The string of a number stands for the number, as far as its digits go. -/
theorem bitsValue_bin (n v : Nat) : bitsValue (bin n v) = v % 2 ^ n := by
  induction n with
  | zero => simp [bin, bitsValue, Nat.mod_one]
  | succ n ih =>
    rw [bin_succ, bitsValue_cons, ih, length_bin, Nat.toNat_testBit, Nat.mod_pow_succ]
    ring

/-! ### The code of a signed integer (rule R260) -/

theorem svlcIndex_eq (v : Int) : (svlcIndex v : Int) = if v = 0 then 0 else if 0 < v then 2 * v - 1 else -2 * v := by
  unfold svlcIndex
  split <;> split <;> omega

/-- The integer of an index, as the reader computes it. -/
def svlcValue (k : Nat) : Int := if k % 2 = 1 then ((k + 1) / 2 : Nat) else -((k / 2 : Nat) : Int)

/-- The index is odd for the positive integers and even for the others, so it gives the integer back. -/
@[simp] theorem svlcValue_svlcIndex (v : Int) : svlcValue (svlcIndex v) = v := by
  unfold svlcValue svlcIndex
  split <;> split <;> omega

/-- Zeros one fewer than the bits of a number with no leading zero, then those bits: the reader counts the zeros up to
the number's leading one, and so knows how many bits follow. -/
theorem decodeSvlc_of_bits {n b : Nat} (rest : List Bool) (hlow : 2 ^ b ≤ n) (hhigh : n < 2 ^ (b + 1)) :
    decodeSvlc (List.replicate b false ++ bin (b + 1) n ++ rest) = some (svlcValue (n - 1), rest) := by
  have hlead : bin (b + 1) n = true :: bin b n := by
    rw [bin_succ, Nat.testBit_of_two_pow_le_and_two_pow_add_one_gt hlow hhigh]
  have hzeros : ((List.replicate b false ++ bin (b + 1) n ++ rest).takeWhile fun c => !c).length = b := by
    rw [List.append_assoc, hlead, List.takeWhile_append_of_pos (by simp)]
    simp
  have hcode : (List.replicate b false ++ bin (b + 1) n).length = 2 * b + 1 := by
    rw [List.length_append, List.length_replicate, length_bin]
    omega
  have hlength : ¬(List.replicate b false ++ bin (b + 1) n ++ rest).length < 2 * b + 1 := by
    rw [List.length_append, hcode]
    omega
  have hdigits : ((List.replicate b false ++ bin (b + 1) n ++ rest).drop b).take (b + 1) = bin (b + 1) n := by
    rw [List.append_assoc, List.drop_left' List.length_replicate, List.take_left' (length_bin _ _)]
  unfold decodeSvlc
  simp only [hzeros, hdigits, if_neg hlength, bitsValue_bin, Nat.mod_eq_of_lt hhigh, List.drop_left' hcode]
  rfl

/-- Settles O47: the digits are those of the index plus one, whose leading one the reader finds. -/
theorem signedCode : Obligations.SignedCode := by
  unfold Obligations.SignedCode
  intro v rest
  have hlow : 2 ^ (svlcIndex v + 1).log2 ≤ svlcIndex v + 1 := Nat.log2_self_le (Nat.succ_ne_zero _)
  refine ⟨svlcIndex_eq v, ⟨(svlcIndex v + 1).log2 + 1, hlow, Nat.lt_log2_self, rfl⟩, ?_⟩
  have hread := decodeSvlc_of_bits rest hlow Nat.lt_log2_self
  rw [Nat.add_sub_cancel, svlcValue_svlcIndex] at hread
  exact hread

/-! ### The code of a pair and of a block (rules R256 to R258) -/

/-- No two rows of the table are for one pair: the search for a row's pair finds that row. -/
theorem find_pairTable : ∀ r ∈ pairTable,
    pairTable.find? (fun r' => r'.run == r.run && r'.magnitude == r.magnitude) = some r := by decide

theorem pairBits_of_mem {r : PairCode} (hr : r ∈ pairTable) {v : Int} (hv : r.magnitude = v.natAbs) :
    pairBits r.run v = r.code ++ [decide (v < 0)] := by
  unfold pairBits
  rw [← hv, find_pairTable r hr]

theorem pairBits_of_not_mem {run : Nat} {v : Int}
    (h : ∀ r ∈ pairTable, ¬(r.run = run ∧ r.magnitude = v.natAbs)) :
    pairBits run v = escCode ++ bin 6 run ++ binInt 9 v := by
  have hnone : pairTable.find? (fun r => r.run == run && r.magnitude == v.natAbs) = none := by
    simpa [List.find?_eq_none] using h
  unfold pairBits
  rw [hnone]

/-- Zeros only lengthen the run before the next level. -/
theorem blockBitsFrom_zeros (run k : Nat) (l : List Int) :
    blockBitsFrom run (List.replicate k 0 ++ l) = blockBitsFrom (run + k) l := by
  induction k generalizing run with
  | zero => rfl
  | succ k ih => rw [List.replicate_succ, List.cons_append, blockBitsFrom, if_pos rfl, ih, Nat.succ_add_eq_add_succ]

/-- A run of zeros and the level after it are one pair. -/
theorem blockBits_pair (run : Nat) {v : Int} (hv : v ≠ 0) (l : List Int) :
    blockBits (List.replicate run 0 ++ v :: l) = pairBits run v ++ blockBits l := by
  rw [blockBits, blockBitsFrom_zeros, Nat.zero_add, blockBitsFrom, if_neg hv, blockBits]

/-- Zeros after the last level have no code of their own. -/
theorem blockBits_zeros (k : Nat) : blockBits (List.replicate k 0) = eobCode := by
  rw [blockBits, ← List.append_nil (List.replicate k 0), blockBitsFrom_zeros, blockBitsFrom]

theorem blockBits_pairs (pairs : List (Nat × Int)) (trailing : Nat) (h : ∀ p ∈ pairs, p.2 ≠ 0) :
    blockBits ((pairs.flatMap fun p => List.replicate p.1 0 ++ [p.2]) ++ List.replicate trailing 0) =
      (pairs.flatMap fun p => pairBits p.1 p.2) ++ eobCode := by
  induction pairs with
  | nil => exact blockBits_zeros trailing
  | cons p pairs ih =>
    obtain ⟨hp, hpairs⟩ := List.forall_mem_cons.mp h
    simp only [List.flatMap_cons, List.append_assoc, List.cons_append, List.nil_append]
    rw [blockBits_pair p.1 hp, ih hpairs]

/-- Settles O45: a pair by its search in the table, the code words by inspection, a block pair by pair. -/
theorem pairCodes : Obligations.PairCodes := by
  unfold Obligations.PairCodes
  refine ⟨fun run v _ => ⟨?_, pairBits_of_not_mem⟩, by decide, by decide, blockBits_pairs⟩
  rintro r hr rfl hv
  exact pairBits_of_mem hr hv

end Sys2Proof.Machine

/-! SUPPORT. The commands that append to the bit sink: what `PutBits` leaves and its two faults, as the statements write
them, then `PUTB`, `ALIGN`, `FLUSH` and `ECMB` (rules R251 to R255, R261 to R264). -/

namespace Sys2Proof.Machine

/-! ### `PutBits` inside a command (rules R251, R252) -/

/-- An accepted string is appended as the statements say, whatever else the command then changes. -/
theorem emitted_of_accepts {s t : State} {l : List Bool} (h : sinkAccepts s l.length)
    (hsink : t.sink = (s.appended l).sink) (hmem : t.mem = (s.appended l).mem) : emitted s l t := by
  have hfit : s.sink.bitpos.toNat + l.length < 2 ^ 32 := by
    rcases h with h | ⟨h, -⟩
    · rw [h]; exact s.sink.bitpos.isLt
    · exact h
  refine ⟨hsink, hmem, ?_, fun a ha => ?_⟩
  · rw [hsink, appended_bitpos l hfit]
  · rw [hmem, mem_read_appended l hfit ha]

section PutBits

variable {s : State} {l : List Bool} {f : State → Except Trap State}

/-- A command whose string the sink accepts goes on with the string appended. -/
theorem complete_putBits_of_accepts (h : sinkAccepts s l.length) :
    complete s (putBits s l >>= f) = complete s (f (s.appended l)) := by
  rw [putBits_of_accepts s l h]
  rfl

/-- A string that is not empty meets the check of the buffer, then the check of memory. -/
theorem putBits_of_ne_nil (h : l ≠ []) : putBits s l =
    (require (sinkFits s l.length) ⟨.outOverflow, l.length⟩ >>= fun _ =>
      require (sinkReaches s l.length) ⟨.busFault, max (sinkLow s) s.memSize⟩ >>= fun _ => pure (s.appended l)) :=
  if_neg (mt List.isEmpty_iff.mp h)

/-- A command that goes on after `PutBits` has its two faults. -/
theorem sinkFaults_of_exec {i : Instr} (hexec : exec i s = complete s (putBits s l >>= f)) : sinkFaults i s l := by
  intro hne
  rw [hexec, putBits_of_ne_nil hne, bind_assoc]
  refine ⟨fun hover => complete_require_of_not (sinkFits_iff s _) (by omega), fun hcount hlimit hmissing => ?_⟩
  rw [complete_require_of (sinkFits_iff s _) ⟨hcount, hlimit⟩, bind_assoc]
  exact complete_require_of_not (sinkReaches_iff s _) (Nat.not_le_of_lt hmissing)

end PutBits

section PutBitsAlone

variable {i : Instr} {s : State} {l : List Bool} (hexec : exec i s = complete s (putBits s l))
include hexec

/-- A command that only appends a string changes the sink and memory, and moves on. -/
theorem exec_of_putBits (h : sinkAccepts s l.length) : ∃ t, exec i s = .next t ∧ emitted s l t ∧
    t = { s with sink := t.sink, mem := t.mem, cp := BitVec.ofNat 32 (s.cp.toNat + 4) } := by
  refine ⟨(s.appended l).advance, ?_, emitted_of_accepts h rfl rfl, ?_⟩
  · rw [hexec, putBits_of_accepts s l h, complete_ok]
  · rw [← nextCp_eq]
    rfl

theorem sinkFaults_of_putBits : sinkFaults i s l :=
  sinkFaults_of_exec (f := pure) (by rw [hexec, bind_pure])

end PutBitsAlone

/-! ### `PUTB` (rule R255) -/

/-- The mode field of `PUTB` is its count. -/
theorem encode_putb (ra : Reg) (n : BitVec 6) :
    encode (.putb ra n) = formatR 0x1D 0 (regBits ra) 0 (n.setWidth 14) := by
  have hcount : ∀ n : BitVec 6, 0#8 ++ n = n.setWidth 14 := by decide
  rw [encode, hcount]

/-- A count that is none of 1 to 32 makes the word no command (rule R117). -/
theorem decodeWord_of_badCount {w : Word} (hop : opField w = 0x1D)
    (hn : (w.extractLsb' 0 6).toNat = 0 ∨ 32 < (w.extractLsb' 0 6).toNat) (i : Instr) : decodeWord w ≠ .ok i := by
  intro hdecode
  obtain ⟨-, -, -, hcount⟩ := valuesLegal_of_decodeWord hdecode
  have := hcount hop
  omega

/-- Settles O41: the word by its fields; the string appended, or one of the two faults of `PutBits`. -/
theorem putBitsCommand : Obligations.PutBitsCommand := by
  unfold Obligations.PutBitsCommand
  refine ⟨fun w hop hn => decodeWord_of_badCount hop hn, ?_⟩
  intro ra n s hlow hhigh bits
  have hexec : exec (.putb ra n) s = complete s (putBits s bits) := rfl
  have hlength : bits.length = n.toNat := length_bin n.toNat (s.x ra).toNat
  have hwf : (Instr.putb ra n).wellFormed = true := by simp [Instr.wellFormed, hlow, hhigh]
  rw [← hlength]
  exact ⟨encodedR_of_encode (encode_putb ra n) hwf, exec_of_putBits hexec, sinkFaults_of_putBits hexec⟩

/-! ### `ALIGN` (rule R253) -/

/-- A stream of whole bytes has no partial byte, where the unused bits of `ACC` are 0 (rules R53, R250). -/
theorem acc_eq_zero_of_aligned {s : State} (hok : sinkOk s) (h : s.sink.bitpos.toNat % 8 = 0) : s.sink.acc = 0 :=
  BitVec.eq_of_getLsbD_eq fun k hk => (hok k (by omega)).trans BitVec.getLsbD_zero.symm

/-- Settles O42: the padding appended, or one of the two faults of `PutBits`; the padding ends on a byte boundary. -/
theorem alignCommand : Obligations.AlignCommand := by
  unfold Obligations.AlignCommand
  refine ⟨rfl, ?_⟩
  intro s pad
  have hexec : exec .align s = complete s (putBits s (List.replicate pad false)) := rfl
  refine ⟨fun haccepts => ?_, sinkFaults_of_putBits hexec⟩
  obtain ⟨t, hnext, hemitted, hframe⟩ := exec_of_putBits hexec (by rwa [List.length_replicate])
  have ⟨hsink, _, hbitpos, _⟩ := hemitted
  have haligned : t.sink.bitpos.toNat % 8 = 0 := by
    rw [hbitpos, List.length_replicate]
    omega
  exact ⟨t, hnext, hemitted, hframe, haligned,
    fun hok => acc_eq_zero_of_aligned ((sinkOk_appended _ hok).congr hsink) haligned⟩

/-! ### `FLUSH` (rule R254) -/

/-- With a partial byte, `FLUSH` checks that its place is in the buffer, then that it is in memory, and stores it. -/
theorem exec_flush_of_partial {s : State} (h : s.sink.bitpos.toNat % 8 ≠ 0) : exec .flush s = complete s
    (require (decide (s.sink.bitpos.toNat / 8 + 1 ≤ s.sink.limit.toNat)) ⟨.outOverflow, 0⟩ >>= fun _ =>
      require (decide (sinkLow s < s.memSize)) ⟨.busFault, sinkLow s⟩ >>= fun _ =>
        pure { s with mem := s.mem.write (sinkLow s) s.sink.acc }) :=
  congrArg (complete s) (if_neg h)

/-- Settles O43: nothing without a partial byte; with one, the two checks in their order and one byte stored. -/
theorem flushCommand : Obligations.FlushCommand := by
  unfold Obligations.FlushCommand
  refine ⟨rfl, ?_⟩
  intro s index a
  refine ⟨fun hnone => ?_, fun hpartial hlimit hmem => ?_, fun hpartial hlimit => ?_, fun hpartial hlimit hmem => ?_⟩
  · rw [← nextCp_eq]
    exact congrArg (complete s) (if_pos hnone)
  · refine ⟨{ s with mem := s.mem.write a s.sink.acc }.advance, ?_, Memory.read_write_same _ _ _,
      fun b hb => Memory.read_write_other _ _ hb, ?_⟩
    · rw [exec_flush_of_partial hpartial, complete_require_of decide_eq_true_iff hlimit]
      exact complete_require_of decide_eq_true_iff hmem
    · rw [← nextCp_eq]
      rfl
  · rw [exec_flush_of_partial hpartial]
    exact complete_require_of_not decide_eq_true_iff (Nat.not_le_of_lt hlimit)
  · rw [exec_flush_of_partial hpartial, complete_require_of decide_eq_true_iff hlimit]
    exact complete_require_of_not decide_eq_true_iff (Nat.not_lt_of_le hmem)

/-! ### `ECMB` (rules R261 to R264) -/

/-- The blocks of a unit's record, one after another (rule R264). -/
theorem levelBits_eq (qc : Vector (Vector Int 64) 6) :
    levelBits qc = blockBits qc[0].toList ++ blockBits qc[1].toList ++ blockBits qc[2].toList ++
      blockBits qc[3].toList ++ blockBits qc[4].toList ++ blockBits qc[5].toList := by
  have hlist : qc.toList = [qc[0], qc[1], qc[2], qc[3], qc[4], qc[5]] := by
    apply List.ext_getElem
    · simp
    · intro k hk _
      have hk : k < 6 := by simpa using hk
      interval_cases k <;> simp
  simp [levelBits, hlist]

/-- What `ECMB` changes of `t`, which is `s` with the unit's record appended (rule R264), `CP` not yet moved. -/
def unitClosed (s t : State) : State :=
  { t with
    quant := { s.quant with prevq := s.quant.mbq }
    mb := nextPredictors s.mb
    frame := { s.frame with mbcount := s.frame.mbcount + 1, uphase := false }
    cur := { s.cur with valid := false } }

/-- With a unit waiting, `ECMB` is `PutBits` of its record and the changes after it. -/
theorem exec_ecmb_of_waiting {s : State} (h : s.frame.uphase = true) :
    exec .ecmb s = complete s (putBits s (recordBits s) >>= fun t => pure (unitClosed s t)) :=
  complete_require_of Iff.rfl h

theorem exec_ecmb_of_accepts {s : State} (h : s.frame.uphase = true) (haccepts : sinkAccepts s (recordBits s).length) :
    exec .ecmb s = .next (unitClosed s (s.appended (recordBits s))).advance := by
  rw [exec_ecmb_of_waiting h, complete_putBits_of_accepts haccepts]
  rfl

/-! The vector predictors after a unit, as rule R263 lists them by mode. -/

theorem nextPredictors_pmvf (u : UnitRegs) : (nextPredictors u).pmvf =
    match u.mode with
    | .intra => 0
    | .forward | .interpolated => u.mvf
    | .backward => u.pmvf := by
  unfold nextPredictors
  cases u.mode <;> rfl

theorem nextPredictors_pmvb (u : UnitRegs) : (nextPredictors u).pmvb =
    match u.mode with
    | .intra => 0
    | .backward | .interpolated => u.mvb
    | .forward => u.pmvb := by
  unfold nextPredictors
  cases u.mode <;> rfl

theorem nextPredictors_frame (u : UnitRegs) :
    nextPredictors u = { u with pmvf := (nextPredictors u).pmvf, pmvb := (nextPredictors u).pmvb } := by
  unfold nextPredictors
  cases u.mode <;> rfl

/-- The scale delta, its test on the registers themselves (rule R262). -/
theorem scaleDelta_toNat (mbq prevq : BitVec 5) : scaleDelta mbq.toNat prevq.toNat =
    if mbq = prevq then [false] else true :: binInt 6 ((mbq.toNat : Int) - prevq.toNat) := by
  simp only [scaleDelta, BitVec.toNat_inj]

/-- Settles O44: the record field by field; where the sink accepts it, the state of `unitClosed`, else a fault. -/
theorem encodeUnit : Obligations.EncodeUnit := by
  unfold Obligations.EncodeUnit
  refine ⟨rfl, ?_⟩
  intro s tag delta difference vectors bits
  have htag : modeTag s.mb.mode = tag := by
    simp only [tag]
    cases s.mb.mode <;> rfl
  have hdelta : scaleDelta s.quant.mbq.toNat s.quant.prevq.toNat = delta := scaleDelta_toNat _ _
  have hvectors : vectorDeltas s.mb = vectors := by
    simp only [vectors, vectorDeltas]
    cases s.mb.mode <;> rfl
  have hbits : bits = recordBits s := by
    simp only [bits, recordBits, htag, hdelta, hvectors, levelBits_eq, List.append_assoc]
  clear_value bits
  subst hbits
  refine ⟨fun hwaiting haccepts => ⟨_, exec_ecmb_of_accepts hwaiting haccepts, emitted_of_accepts haccepts rfl rfl, rfl,
    nextPredictors_pmvf s.mb, nextPredictors_pmvb s.mb, ?_⟩,
    fun hidle => complete_require_stateFault Iff.rfl (by simp [hidle]),
    fun hwaiting => sinkFaults_of_exec (exec_ecmb_of_waiting hwaiting)⟩
  rw [← nextCp_eq]
  exact congrArg (fun mb => { unitClosed s (s.appended (recordBits s)) with mb := mb, cp := nextCp s })
    (nextPredictors_frame s.mb)

end Sys2Proof.Machine

/-! SUPPORT. The commands of frame control: `FRMNEXT`; `FRMEND`, whose marker ends on a byte boundary; `FRMBEG`, with the
configuration checks one after another and the header as one number (rules R281 to R286). -/

namespace Sys2Proof.Machine

/-! ### `FRMNEXT` (rule R286) -/

/-- The window rule only reaches the valid bit of a slot. -/
theorem windowed_eq (s : State) (i : Nat) (slot : RefSlot) :
    windowed s i slot = { slot with valid := slot.valid && decide (i < s.cfg.refWin.toNat) } := by
  unfold windowed
  split
  · rw [decide_eq_false (by omega), Bool.and_false]
  · rw [decide_eq_true (by omega), Bool.and_true]

/-- Settles O51: one check; where it passes, each slot takes the one before it, under the window rule. -/
theorem nextFrame : Obligations.NextFrame := by
  unfold Obligations.NextFrame
  intro keep s shifted
  refine ⟨?_, fun hcomplete => ?_, complete_require_stateFault beq_iff_eq⟩
  · cases keep <;> exact encodedR_of_encode rfl rfl
  · refine ⟨_, complete_require_of beq_iff_eq hcomplete, fun hdrop => ?_, fun hkeep i => ?_, BitVec.toNat_add _ _,
      fun _ => rfl, ?_⟩
    · subst hdrop; rfl
    · subst hkeep
      fin_cases i <;> exact windowed_eq s _ _
    · rw [← nextCp_eq]
      rfl

/-! ### `FRMEND` (rule R285) -/

/-- A string that ends on a byte boundary leaves no partial byte, whatever was in it before (rules R250, R251). -/
theorem appended_acc_of_aligned (s : State) {l : List Bool} (hne : l ≠ [])
    (h : (s.appended l).sink.bitpos.toNat % 8 = 0) : (s.appended l).sink.acc = 0 := by
  obtain ⟨l, c, rfl⟩ := (List.eq_nil_or_concat l).resolve_left hne
  simp only [State.appended, List.concat_eq_append, appendBits_append, appendBits_cons, appendBits_nil] at h ⊢
  rcases appendBit_cases (appendBits (s.sink, s.mem) l) c with ⟨hpos, -, hsink⟩ | ⟨-, hsink, -⟩
  · -- the last byte is not complete: the string does not end on a byte boundary
    rw [hsink, BitVec.toNat_add] at h
    change (_ + 1) % 2 ^ 32 % 8 = 0 at h
    omega
  · rw [hsink]

/-- What `FRMEND` changes of `t`, which is `s` with the marker appended (rule R285), `CP` not yet moved. -/
def frameEnded (s t : State) : State := { t with frame := { s.frame with fs := .complete } }

/-- Settles O50: two checks in their order, then the marker, which ends the stream on a byte boundary. -/
theorem endFrame : Obligations.EndFrame := by
  unfold Obligations.EndFrame
  refine ⟨rfl, ?_⟩
  intro s pad bits ready counted
  have ready_iff : (s.frame.fs == .encoding && !s.frame.uphase) = true ↔ ready := by
    rw [Bool.and_eq_true, beq_iff_eq, Bool.not_eq_true']
  -- what is left to do after each of the two checks
  have after1 : ready → exec .frmend s = complete s _ := complete_require_of ready_iff
  have after2 : ready → counted → exec .frmend s = complete s (putBits s bits >>= fun t => pure (frameEnded s t)) :=
    fun h1 h2 => (after1 h1).trans (complete_require_of beq_iff_eq h2)
  refine ⟨fun h1 h2 haccepts => ?_, complete_require_stateFault ready_iff,
    fun h1 hnot => (after1 h1).trans (complete_require_of_not beq_iff_eq hnot),
    fun h1 h2 => sinkFaults_of_exec (after2 h1 h2)⟩
  have hemitted : emitted s bits (frameEnded s (s.appended bits)).advance := emitted_of_accepts haccepts rfl rfl
  have haligned : (s.appended bits).sink.bitpos.toNat % 8 = 0 := by
    obtain ⟨-, -, (hbitpos : (s.appended bits).sink.bitpos.toNat = _), -⟩ := hemitted
    have hlength : bits.length = 3 + pad := by
      rw [List.length_append, List.length_replicate]
      rfl
    omega
  refine ⟨_, (after2 h1 h2).trans (complete_putBits_of_accepts haccepts), hemitted, ?_, haligned,
    appended_acc_of_aligned s (List.cons_ne_nil _ _) haligned⟩
  rw [← nextCp_eq]
  rfl

/-! ### The configuration checks (rule R282) -/

/-- A check of rule R282 decides the condition that the statements write. -/
def Decides (check : Nat × Bool) (condition : Prop) : Prop := check.2 = true ↔ condition

section Checks

variable {checks : List (Nat × Bool)} {conditions : List Prop} (h : List.Forall₂ Decides checks conditions)
include h

/-- The checks pass where every condition holds. -/
theorem requireChecks_of_forall (hall : ∀ p ∈ conditions, p) : requireChecks checks = .ok () := by
  induction h with
  | nil => rfl
  | cons hp _ ih =>
    obtain ⟨hfirst, hrest⟩ := List.forall_mem_cons.mp hall
    exact (if_pos (hp.mpr hfirst)).trans (ih hrest)

/-- Where the conditions before place `n` hold and that of place `n` does not, the check of place `n` fails. -/
theorem requireChecks_of_first {n : Nat} (hbefore : ∀ k < n, conditions.getD k True) (hfail : ¬conditions.getD n True) :
    requireChecks checks = .error ⟨.configFault, (checks.map Prod.fst).getD n 0⟩ := by
  induction h generalizing n with
  | nil => exact absurd trivial hfail
  | cons hp _ ih =>
    cases n with
    | zero => exact if_neg (mt hp.mp hfail)
    | succ n =>
      have hfirst := hp.mpr (hbefore 0 n.succ_pos)
      exact (if_pos hfirst).trans (ih (fun k hk => hbefore (k + 1) (Nat.succ_lt_succ hk)) hfail)

end Checks

/-- The checks are numbered from 1 in their order. -/
theorem configChecks_number (s : State) (ftype : FrameType) :
    ∀ n : Fin 8, ((configChecks s ftype).map Prod.fst).getD n 0 = n + 1 := by
  change ∀ n : Fin 8, [1, 2, 3, 4, 5, 6, 7, 8].getD n 0 = n.val + 1
  decide

theorem dimensionOk_iff (d : Nat) : dimensionOk d = true ↔ legalDimension d := by
  simp only [dimensionOk, legalDimension, Bool.and_eq_true, bne_iff_ne, beq_iff_eq, decide_eq_true_eq]
  omega

theorem windowSize_iff (n : BitVec 3) : (n != 0 && decide (n.toNat ≤ 4)) = true ↔ 1 ≤ n.toNat ∧ n.toNat ≤ 4 := by
  simp only [Bool.and_eq_true, bne_iff_ne, decide_eq_true_eq]
  bv_omega

theorem matrix_iff (qm : Vector Byte 64) : (qm.toList.all fun m => m != 0) = true ↔ ∀ p : Fin 64, qm[p] ≠ 0 := by
  simp [Fin.forall_iff]

/-- The forward slot is needed by every type but Intra. -/
theorem forwardSlot_iff (ftype : FrameType) (valid : Bool) :
    (ftype == .intra || valid) = true ↔ (frameTypeNumber ftype ≠ 0 → valid = true) := by
  cases ftype <;> simp [frameTypeNumber]

/-- The backward slot is needed by Bidirectional alone. -/
theorem backwardSlot_iff (ftype : FrameType) (valid : Bool) :
    (ftype != .bidirectional || valid) = true ↔ (frameTypeNumber ftype = 2 → valid = true) := by
  cases ftype <;> simp [frameTypeNumber]

/-! ### The header as one number (rules R8, R284) -/

/-- The digits above the first `n` do not reach a string of `n` bits. -/
theorem bin_mod (n v : Nat) : bin n (v % 2 ^ n) = bin n v :=
  List.map_congr_left fun i hi => by
    rw [Nat.testBit_mod_two_pow, decide_eq_true (by have := List.mem_range.mp hi; omega), Bool.true_and]

/-- Two strings one after the other are the string of one number. -/
theorem bin_append (m n a : Nat) {b : Nat} (hb : b < 2 ^ n) : bin m a ++ bin n b = bin (m + n) (a * 2 ^ n + b) := by
  induction m with
  | zero =>
    rw [Nat.zero_add, ← bin_mod n (_ + b), Nat.mul_add_mod', Nat.mod_eq_of_lt hb]
    rfl
  | succ m ih =>
    have hdigit : (a * 2 ^ n + b).testBit (m + n) = a.testBit m := by
      rw [Nat.mul_comm, Nat.testBit_two_pow_mul_add _ hb, if_neg (by omega), Nat.add_sub_cancel]
    rw [bin_succ, List.cons_append, ih, Nat.succ_add, bin_succ, hdigit]

/-- A dimension that the checks accept is fewer than 256 units. -/
theorem units_lt_of_legalDimension {d : Nat} (h : legalDimension d) : d / 16 < 2 ^ 8 := by
  obtain ⟨-, -, hmax⟩ := h
  omega

theorem headerBits_eq {s : State} (ftype : FrameType) (hwide : unitsWide s < 2 ^ 8) (hhigh : unitsHigh s < 2 ^ 8) :
    headerBits s ftype = bin 24 (2 ^ 23 + frameTypeNumber ftype * 2 ^ 21 + s.cfg.qinit.toNat * 2 ^ 16 +
      unitsWide s * 2 ^ 8 + unitsHigh s) := by
  have htype : (frameTypeCode ftype).toNat = frameTypeNumber ftype := by cases ftype <;> rfl
  calc headerBits s ftype
      = bin 1 1 ++ bin 2 (frameTypeNumber ftype) ++ bin 5 s.cfg.qinit.toNat ++ bin 8 (unitsWide s) ++
          bin 8 (unitsHigh s) := by
        rw [headerBits, htype]
        rfl
    _ = _ := by
        rw [bin_append 1 2 _ (htype ▸ (frameTypeCode ftype).isLt), bin_append _ 5 _ s.cfg.qinit.isLt,
          bin_append _ 8 _ hwide, bin_append _ 8 _ hhigh]
        congr 1
        ring

/-! ### `FRMBEG` (rules R281 to R283) -/

/-- The mode field of `FRMBEG` is the number of its frame type. -/
theorem encode_frmbeg (ftype : FrameType) :
    encode (.frmbeg ftype) = formatR 0x20 0 0 0 (BitVec.ofNat 14 (frameTypeNumber ftype)) := by
  cases ftype <;> rfl

/-- No word with frame type 3 is an `FRMBEG`, or any command (rule R117). -/
theorem decodeWord_ne_ok_of_badFrameType {w : Word} (hop : opField w = 0x20) (htype : (w.extractLsb' 0 2).toNat = 3)
    (i : Instr) : decodeWord w ≠ .ok i := by
  intro h
  obtain ⟨-, -, hlegal, -⟩ := valuesLegal_of_decodeWord h
  exact hlegal hop htype

/-- Settles O49: the check of the state, the configuration checks, then the header, whose fields the checks bound. (`beginFrame`
is the model's own initialisation of rule R283.) -/
theorem beginFrameCommand : Obligations.BeginFrame := by
  unfold Obligations.BeginFrame
  refine ⟨fun w => decodeWord_ne_ok_of_badFrameType, ?_⟩
  intro ftype s number fwdValid bwdValid checks header
  have hchecks : List.Forall₂ Decides (configChecks s ftype) checks :=
    .cons (dimensionOk_iff _) <| .cons (dimensionOk_iff _) <| .cons bne_iff_ne <| .cons bne_iff_ne <|
    .cons (windowSize_iff _) <| .cons (matrix_iff _) <| .cons (forwardSlot_iff ftype _) <|
    .cons (backwardSlot_iff ftype _) .nil
  have hheader : (∀ c ∈ checks, c) → headerBits s ftype = header := fun hall =>
    headerBits_eq ftype (units_lt_of_legalDimension (hall _ (.head _)))
      (units_lt_of_legalDimension (hall _ (.tail _ (.head _))))
  have hlength : header.length = 24 := length_bin 24 _
  clear_value header
  -- what is left to do after the check of the state, and after the configuration checks
  have after1 : s.frame.fs = .awaiting → exec (.frmbeg ftype) s = complete s (requireChecks (configChecks s ftype) >>=
      fun _ => putBits s (headerBits s ftype) >>= fun t => pure (beginFrame t ftype)) :=
    complete_require_of beq_iff_eq
  have after2 : s.frame.fs = .awaiting → (∀ c ∈ checks, c) →
      exec (.frmbeg ftype) s = complete s (putBits s header >>= fun t => pure (beginFrame t ftype)) := fun h1 h2 => by
    rw [after1 h1, requireChecks_of_forall hchecks h2, hheader h2]
    rfl
  refine ⟨encodedR_of_encode (encode_frmbeg ftype) rfl, fun h1 h2 haccepts => ?_,
    complete_require_stateFault beq_iff_eq, fun n h1 hbefore hfail => ?_,
    fun h1 h2 => sinkFaults_of_exec (after2 h1 h2)⟩
  · rw [← hlength] at haccepts
    refine ⟨_, (after2 h1 h2).trans (complete_putBits_of_accepts haccepts), emitted_of_accepts haccepts rfl rfl, ?_⟩
    rw [← nextCp_eq]
    rfl
  · have hfirst := requireChecks_of_first hchecks (fun k hk => hbefore ⟨k, hk.trans n.isLt⟩ hk) hfail
    rw [configChecks_number] at hfirst
    rw [after1 h1, hfirst]
    exact congrArg Host.Outcome.next (takeFault_eq s _)

end Sys2Proof.Machine

/-! SUPPORT. Precise faults: only fault entry sets `FAULT`, and the code it writes is one of the table's (rules R301, R304,
R305). -/

namespace Sys2Proof.Machine

/-- The codes are those of rule R301. -/
theorem faultNumber_range (c : FaultCode) : 1 ≤ (faultNumber c).toNat ∧ (faultNumber c).toNat ≤ 10 := by
  cases c <;> decide

/-- A command that sets `FAULT` took a fault: `HALT` leaves the bit alone, and so does every command that completes. -/
theorem exec_sets_fault {i : Instr} {s t : State} (h : exec i s = .next t) (hs : s.run.fault = false)
    (ht : t.run.fault = true) : ∃ e, t = s.takeFault e := by
  by_cases hhalt : i = .halt
  · subst hhalt
    cases h
    exact absurd (hs.symm.trans ht) Bool.false_ne_true
  rcases exec_commandFrame hhalt h with hfault | hframe
  · exact hfault
  · rw [hframe.run, hs] at ht
    exact absurd ht Bool.false_ne_true

/-- Settles O9: the command took a fault, and fault entry writes no more than the statement lists. -/
theorem faultsAreVoid : Obligations.FaultsAreVoid := by
  unfold Obligations.FaultsAreVoid
  intro i s t h hs ht
  obtain ⟨e, rfl⟩ := exec_sets_fault h hs ht
  obtain ⟨hmin, hmax⟩ := faultNumber_range e.code
  exact ⟨⟨_, e.info, hmin, hmax, takeFault_eq s e⟩, s.takeFault_cp e, fun a => by rw [s.takeFault_mem e]⟩

end Sys2Proof.Machine

/-! SUPPORT. Which commands write data, and what each of them does to it, said once: whatever else a step does changes
registers and run control alone (rules R13, R32, R140, R304). -/

namespace Sys2Proof.Machine

/-! ### Steps that leave the data alone -/

/-- `t` is `s` but for general registers, run control, flags, search results and the host agent: the frame, its
configuration, the loaded unit, the quantizer, the sink and memory are the same. -/
def SameData (s t : State) : Prop :=
  t = { s with
    regs := t.regs, cp := t.cp, flags := t.flags, run := t.run, cause := t.cause, irq := t.irq, me := t.me
    host := t.host }

/-- Flags and search results are no data. -/
theorem sameData_update (s : State) (flags : Flags) (me : SearchRegs) :
    SameData s { s with flags := flags, me := me } := rfl

/-- Moving `CP` on touches no data. -/
theorem SameData.advance {s t : State} (h : SameData s t) : SameData s t.advance := by
  unfold SameData at h
  rw [h]
  rfl

/-- A write of a general register touches no data. -/
theorem SameData.setX {s t : State} (h : SameData s t) (r : Reg) (v : Word) : SameData s (t.setX r v) := by
  unfold SameData at h
  rw [State.setX_eq, h]
  rfl

/-! ### Commands that write data -/

/-- The data a completed command leaves, `CP` not yet moved, and what its checks say of the state it ran in: one
constructor for each command that writes data. -/
inductive Effect (s : State) : Instr → State → Prop where
  | stw (rs ra : Reg) (imm16 : BitVec 16) (hexists : (effectiveAddress s ra imm16).toNat + 4 ≤ s.memSize) :
      Effect s (.stw rs ra imm16) { s with mem := s.mem.writeWord (effectiveAddress s ra imm16).toNat (s.x rs) }
  | wrcsr (csr : BitVec 16) (ra : Reg) (c : Csr) (hnumber : csrOfNumber csr.toNat = some c)
      (hlock : csrClass c = .rwf → s.frame.fs = .awaiting) : Effect s (.wrcsr csr ra) (csrStore s c (s.x ra))
  | ldcur (ra : Reg) (hready : coding s ∧ s.frame.uphase = false) (hplaced : unitAligned s (unpack (s.x ra)) = true) :
      Effect s (.ldcur ra) { s with cur := loadUnit s (lo16s (s.x ra)).toNat (hi16s (s.x ra)).toNat }
  | tqmb (mode : CodingMode) (hpasses : tqmbPasses s mode) : Effect s (.tqmb mode) (tqmbResult s mode)
  | ecmb (hwaiting : s.frame.uphase = true) (haccepts : sinkAccepts s (recordBits s).length) :
      Effect s .ecmb (unitClosed s (s.appended (recordBits s)))
  | putb (ra : Reg) (n : BitVec 6) (haccepts : sinkAccepts s (bin n.toNat (s.x ra).toNat).length) :
      Effect s (.putb ra n) (s.appended (bin n.toNat (s.x ra).toNat))
  | align (haccepts : sinkAccepts s (alignPad s.sink.bitpos.toNat).length) :
      Effect s .align (s.appended (alignPad s.sink.bitpos.toNat))
  | flush (hexists : sinkLow s < s.memSize) : Effect s .flush { s with mem := s.mem.write (sinkLow s) s.sink.acc }
  | frmbeg (ftype : FrameType) (hfs : s.frame.fs = .awaiting) (hchecks : requireChecks (configChecks s ftype) = .ok ())
      (haccepts : sinkAccepts s (headerBits s ftype).length) :
      Effect s (.frmbeg ftype) (beginFrame (s.appended (headerBits s ftype)) ftype)
  | frmend (hfs : s.frame.fs = .encoding ∧ s.frame.uphase = false)
      (hcount : s.frame.mbcount.toNat = unitsWide s * unitsHigh s) (haccepts : sinkAccepts s (endBits s).length) :
      Effect s .frmend (frameEnded s (s.appended (endBits s)))
  | frmnext (keep : Bool) (hfs : s.frame.fs = .complete) : Effect s (.frmnext keep)
      { s with
        cfg := { s.cfg with refs := if keep then shiftedRefs s else s.cfg.refs }
        frame := { s.frame with findex := s.frame.findex + 1, fs := .awaiting } }

/-- What a command's checks let through: the same data, or its effect on it. -/
def Leaves (s : State) (i : Instr) (u : State) : Prop := SameData s u ∨ Effect s i u

/-- Behind a check, the check passed. -/
theorem Yields.passed {P : State → Prop} {c : Except Trap Unit} {f : Unit → Except Trap State}
    (h : c = .ok () → Yields P (f ())) : Yields P (c >>= f) := by
  cases c with
  | ok => exact h rfl
  | error e => exact Yields.error e

/-- Behind `PutBits`, the sink accepted the string (rule R251). -/
theorem Yields.accepted {P : State → Prop} {s : State} {l : List Bool} {f : State → Except Trap State}
    (h : sinkAccepts s l.length → Yields P (f (s.appended l))) : Yields P (Machine.putBits s l >>= f) := by
  cases hput : Machine.putBits s l with
  | ok u =>
    obtain ⟨haccepts, rfl⟩ := putBits_ok hput
    exact h haccepts
  | error e => exact Yields.error e

/-- The checks of rule R233 let through the units that pass it. -/
theorem tqmbPasses_of_checks {s : State} {mode : CodingMode} (hcheck : checkTqmb s mode = .ok ())
    (hmem : requireInMemory s (tqmbSpans s mode) = .ok ()) : tqmbPasses s mode := by
  simp only [checkTqmb, require_bind_ok, require_eq_ok, tqmbReady_iff, modeAllowed_iff, bne_iff_ne, beq_iff_eq,
    tqmbVector_iff, modeUses_forward_iff, modeUses_backward_iff] at hcheck
  obtain ⟨hready, hallowed, hscale, hnext, hforward, hbackward⟩ := hcheck
  refine ⟨hready, hallowed, hscale, hnext, hforward, hbackward, fun a ha => ?_⟩
  obtain ⟨sp, hsp, hlow, hhigh⟩ := (mem_tqmbSpans_iff s mode a).mpr ha
  have hspan := (requireInMemory_eq_ok ..).mp hmem sp hsp
  omega

/-- A command whose checks let through the same data or its effect. -/
theorem complete_leaves {i : Instr} {s t : State} {r : Except Trap State} (h : complete s r = .next t)
    (hr : Yields (Leaves s i) r) : SameData s t ∨ ∃ u, Effect s i u ∧ t = u.advance := by
  rcases complete_cases h with ⟨u, hu, rfl⟩ | ⟨e, -, rfl⟩
  · exact (hr u hu).imp SameData.advance fun heffect => ⟨u, heffect, rfl⟩
  · exact .inl rfl

/-- The same of a command that only appends a string to the sink. -/
theorem complete_putBits_leaves {i : Instr} {s t : State} {l : List Bool} (h : complete s (putBits s l) = .next t)
    (hl : sinkAccepts s l.length → Effect s i (s.appended l)) :
    SameData s t ∨ ∃ u, Effect s i u ∧ t = u.advance :=
  complete_leaves h fun u hu => by
    obtain ⟨haccepts, rfl⟩ := putBits_ok hu
    exact .inr (hl haccepts)

/-- The same of a command that has no checks and leaves the data alone. -/
theorem completed_sameData {i : Instr} {s t u : State} (h : complete s (.ok u) = .next t) (hu : SameData s u) :
    SameData s t ∨ ∃ u, Effect s i u ∧ t = u.advance :=
  complete_leaves h (.ok (.inl hu))

/-- Every command leaves the data alone, as every fault does, or completes with its effect. -/
theorem exec_effect {i : Instr} {s t : State} (h : exec i s = .next t) :
    SameData s t ∨ ∃ u, Effect s i u ∧ t = u.advance := by
  have hsame : SameData s s := rfl
  cases i with
  | halt | br => cases h; exact .inl rfl
  | nop => exact completed_sameData h hsame
  | cmp => exact completed_sameData h (sameData_update ..)
  | addi | ori | lui | add | sub => exact completed_sameData h (hsame.setX _ _)
  | ldw => exact complete_leaves h (.check (.ok (.inl (hsame.setX _ _))))
  | stw rs ra imm16 =>
    refine complete_leaves h (.passed fun hcheck => .ok (.inr (.stw rs ra imm16 ?_)))
    rw [checkWordAccess, require_bind_ok, require_eq_ok, decide_eq_true_iff] at hcheck
    exact hcheck.2
  | rdcsr rd csr =>
    refine complete_leaves h ?_
    split
    · exact .error _
    · exact .ok (.inl (hsame.setX _ _))
  | wrcsr csr ra =>
    refine complete_leaves h ?_
    split
    · exact .error _
    · next c hnumber =>
      exact .check (.require fun hlock => .ok (.inr (.wrcsr csr ra c hnumber ((frameLock_iff _ s).mp hlock))))
  | ldcur ra =>
    exact complete_leaves h (.require fun hready => .require fun hplaced => .check
      (.ok (.inr (.ldcur ra ((ldcurReady_iff s).mp hready) hplaced))))
  | metric => exact complete_leaves h (.check (.check (.check (.check (.check (.ok (.inl (hsame.setX _ _))))))))
  | act | mdec => exact complete_leaves h (.check (.ok (.inl ((sameData_update ..).setX _ _))))
  | msrch => exact complete_leaves h (.check (.check (.check (.check (.ok (.inl ((sameData_update ..).setX _ _)))))))
  | tqmb mode =>
    exact complete_leaves h (.passed fun hcheck => .passed fun hmem =>
      .ok (.inr (.tqmb mode (tqmbPasses_of_checks hcheck hmem))))
  | ecmb =>
    exact complete_leaves h (.require fun hwaiting => .accepted fun haccepts => .ok (.inr (.ecmb hwaiting haccepts)))
  | putb ra n => exact complete_putBits_leaves h (.putb ra n)
  | align => exact complete_putBits_leaves h .align
  | flush =>
    refine complete_leaves h ?_
    split
    · exact .ok (.inl rfl)
    · exact .check (.require fun hexists => .ok (.inr (.flush (of_decide_eq_true hexists))))
  | frmbeg ftype =>
    exact complete_leaves h (.require fun hfs => .passed fun hchecks => .accepted fun haccepts =>
      .ok (.inr (.frmbeg ftype (beq_iff_eq.mp hfs) hchecks haccepts)))
  | frmend =>
    refine complete_leaves h (.require fun hfs => .require fun hcount => .accepted fun haccepts =>
      .ok (.inr (.frmend ?_ (beq_iff_eq.mp hcount) haccepts)))
    simpa using hfs
  | frmnext keep => exact complete_leaves h (.require fun hfs => .ok (.inr (.frmnext keep (beq_iff_eq.mp hfs))))

/-! ### Every step -/

/-- What depends on the data alone, and is kept by the effect of every command, by reset and by the four other things
the host can do to the data, every step keeps. -/
theorem step_keeps_of_data {P : State → Prop} (hsame : ∀ s t, SameData s t → P s → P t)
    (heffect : ∀ s i u, Effect s i u → P s → P u) (hreset : ∀ s, P s → P s.resetEngine)
    (hrefs : ∀ s, P s → P s.ctrlRefClear) (habort : ∀ s, P s → P s.ctrlFrameAbort)
    (hstore : ∀ s c v, (csrClass c = .rwf → s.frame.fs = .awaiting) → P s → P (csrStore s c v))
    (hbyte : ∀ s address v, address < s.memSize → P s → P { s with mem := s.mem.write address v }) {s t : State}
    (h : step s = .next t) (hs : P s) : P t := by
  have hctrl : ∀ w s, P s → P (writeCtrl s w) := fun w s hs =>
    writeCtrl_keeps hreset (fun s => hsame s _ rfl) hrefs habort
      (fun s => hsame s _ (by unfold State.ctrlStop; split <;> rfl))
      (fun s => hsame s _ (by unfold State.ctrlGo; split <;> rfl)) w hs
  refine step_keeps (fun s host => hsame s _ rfl) (fun a s t ha hs => ?_) (fun s t _ he hs => ?_) h hs
  · rcases hostStep_cases ha with ⟨w, rfl⟩ | ⟨n, w, rfl⟩ | ⟨address, v, hexists, rfl⟩ | rfl
    · exact hsame s _ rfl hs
    · rcases hostWriteReg_cases s n w with hw | hw | ⟨irq, hw⟩ | ⟨c, -, hlock, hw⟩ <;> rw [hw]
      · exact hsame s _ rfl hs
      · exact hctrl w s hs
      · exact hsame s _ rfl hs
      · exact hstore s c w hlock hs
    · exact hbyte s address v hexists hs
    · exact hreset s hs
  · rcases engineStep_cases s with ⟨-, hstep⟩ | ⟨e, hstep⟩ | ⟨i, hstep⟩ <;> rw [hstep] at he
    · cases he; exact hsame s _ rfl hs
    · cases he; exact hsame s _ rfl hs
    · rcases exec_effect he with hdata | ⟨u, hu, rfl⟩
      · exact hsame s t hdata hs
      · exact hsame u _ rfl (heffect s i u hu hs)

end Sys2Proof.Machine

/-! SUPPORT. Memory stays canonical and within `MEMSIZE` (rules R80, R84; log 1). -/

namespace Sys2Proof.Machine

/-! ### Writes of bytes that exist -/

/-- A memory is in canonical form and lists no address at or above a size. -/
def Memory.Within (m : Memory) (size : Nat) : Prop := m.wf = true ∧ ∀ c ∈ m, c.1 < size

theorem memoryOk_iff_within (s : State) : memoryOk s ↔ s.mem.Within s.memSize := Iff.rfl

/-- A byte written below the size keeps both. -/
theorem Memory.Within.write {m : Memory} {size x : Nat} (h : m.Within size) (v : Byte) (hx : x < size) :
    (m.write x v).Within size := by
  obtain ⟨hwf, hbelow⟩ := h
  refine ⟨m.wf_write x v hwf, fun c hc => ?_⟩
  rcases m.mem_write x v c hc with rfl | hold
  · exact hx
  · exact hbelow c hold

theorem Memory.Within.writeCells {m : Memory} {size : Nat} {l : List Host.Cell} (h : m.Within size)
    (hl : ∀ c ∈ l, c.1 < size) : (m.writeCells l).Within size := by
  induction l generalizing m with
  | nil => exact h
  | cons c l ih =>
    obtain ⟨hc, hrest⟩ := List.forall_mem_cons.mp hl
    exact ih (h.write c.2 hc) hrest

theorem Memory.Within.writeRange {m : Memory} {size a : Nat} {l : List Byte} (h : m.Within size)
    (hl : a + l.length ≤ size) : (m.writeRange a l).Within size := by
  rw [Memory.writeRange_eq_writeCells]
  refine h.writeCells fun c hc => ?_
  obtain ⟨j, hj, rfl⟩ := List.mem_map.mp hc
  have hj := List.mem_range.mp hj
  show a + j < size
  omega

/-- The bytes that a string completes exist where the bytes it needs do (rule R251). -/
theorem memoryOk_appended {s : State} {l : List Bool} (hfit : s.sink.bitpos.toNat + l.length < 2 ^ 32)
    (hreach : s.sink.base.toNat + (s.sink.bitpos.toNat + l.length) / 8 ≤ s.memSize) (h : memoryOk s) :
    memoryOk (s.appended l) := by
  induction l generalizing s with
  | nil => exact h
  | cons c l ih =>
    rw [List.length_cons] at hfit hreach
    have hbitpos := appended_singleton_bitpos (s := s) c (by omega)
    rw [appended_cons]
    refine ih (by rw [hbitpos]; omega) ?_ ?_
    · rw [hbitpos, appended_base, State.appended_memSize]
      rwa [Nat.add_right_comm, Nat.add_assoc]
    · rw [memoryOk_iff_within, State.appended_memSize]
      rcases appended_singleton_cases (s := s) c (by omega) with ⟨-, hmem, -⟩ | ⟨hlast, hmem⟩ <;> rw [hmem]
      · exact h
      · exact Memory.Within.write h _ (by omega)

/-- Strings that the sink accepts touch bytes that exist alone (rules R251, R252). -/
theorem memoryOk_of_accepts {s : State} {l : List Bool} (haccepts : sinkAccepts s l.length) (h : memoryOk s) :
    memoryOk (s.appended l) := by
  rcases haccepts with hnil | ⟨hfit, -, hreach⟩
  · rw [List.length_eq_zero_iff.mp hnil]
    exact h
  · refine memoryOk_appended hfit ?_ h
    unfold streamBytes at hreach
    omega

/-- A unit that passed its checks is stored to bytes that exist (rules R231, R233 step 7). -/
theorem memoryOk_tqmbResult {s : State} {mode : CodingMode} (hpasses : tqmbPasses s mode) (h : memoryOk s) :
    memoryOk (tqmbResult s mode) := by
  obtain ⟨-, -, -, -, -, -, hexists⟩ := hpasses
  have hsize : (tqmbResult s mode).memSize = s.memSize := (commandFrame_tqmbResult s mode).memSize
  rw [memoryOk_iff_within, hsize, tqmbResult_mem]
  refine Memory.Within.writeCells h fun c hc => ?_
  obtain ⟨n, hn, rfl⟩ := List.mem_map.mp hc
  exact hexists _ (.inl (unitAddress_samplePlace s (List.mem_range.mp hn)))

/-! The initialisation of a frame writes no memory (rule R283). -/

theorem beginFrame_mem (s : State) (ftype : FrameType) : (beginFrame s ftype).mem = s.mem := rfl

theorem beginFrame_memSize (s : State) (ftype : FrameType) : (beginFrame s ftype).memSize = s.memSize := rfl

/-! ### Every step -/

theorem Effect.keeps_memoryOk {s u : State} {i : Instr} (heffect : Effect s i u) (h : memoryOk s) : memoryOk u := by
  cases heffect with
  | stw rs ra imm16 hexists => exact Memory.Within.writeRange h hexists
  | wrcsr csr ra c =>
    obtain ⟨-, -, -, -, -, -, -, hmem, hsize, -⟩ := csrStore_frame s c (s.x ra)
    rwa [memoryOk_iff_within, hmem, hsize]
  | ldcur | frmnext => exact h
  | tqmb mode hpasses => exact memoryOk_tqmbResult hpasses h
  | ecmb _ haccepts => exact memoryOk_of_accepts haccepts h
  | putb _ _ haccepts => exact memoryOk_of_accepts haccepts h
  | align haccepts => exact memoryOk_of_accepts haccepts h
  | flush hexists => exact Memory.Within.write h _ hexists
  | frmbeg _ _ _ haccepts =>
    rw [memoryOk_iff_within, beginFrame_mem, beginFrame_memSize]
    exact memoryOk_of_accepts haccepts h
  | frmend _ _ haccepts => exact memoryOk_of_accepts haccepts h

/-- Settles O57: every command by its effect on the data, and the host's bytes exist. -/
theorem memoryKept : Obligations.MemoryKept := by
  unfold Obligations.MemoryKept
  intro s t hs h
  refine step_keeps_of_data (P := memoryOk) ?_ (fun _ _ _ => Effect.keeps_memoryOk) (fun _ => id) ?_ ?_ ?_ ?_ h hs
  · intro s t hsame hs
    rw [hsame]
    exact hs
  · intro s hs
    unfold State.ctrlRefClear
    split <;> exact hs
  · intro s hs
    unfold State.ctrlFrameAbort
    split <;> exact hs
  · intro s c v _ hs
    obtain ⟨-, -, -, -, -, -, -, hmem, hsize, -⟩ := csrStore_frame s c v
    rwa [memoryOk_iff_within, hmem, hsize]
  · exact fun s address v hexists hs => Memory.Within.write hs v hexists

end Sys2Proof.Machine

/-! SUPPORT. What an open frame relies on is kept by every step: the locked configuration, the unit's phase, count and
position, the range of the vectors (rules R52, R175, R191, R233, R264, R282 to R287). -/

namespace Sys2Proof.Machine

/-! ### States alike, and states without a frame -/

/-- The frame's registers, its configuration, the unit and the unit registers decide; the frame index does not
matter. -/
theorem frameOk.congr {s t : State} {index : BitVec 16} (h : frameOk s)
    (hframe : t.frame = { s.frame with findex := index }) (hcfg : t.cfg = s.cfg) (hcur : t.cur = s.cur)
    (hmb : t.mb = s.mb) : frameOk t := by
  have ht : t = { t with frame := { s.frame with findex := index }, cfg := s.cfg, cur := s.cur, mb := s.mb } := by
    rw [← hframe, ← hcfg, ← hcur, ← hmb]
  rw [ht]
  exact h

/-- With no frame open and no unit waiting there is nothing to keep. -/
theorem frameOk_of_awaiting {s : State} (hfs : s.frame.fs = .awaiting) (huphase : s.frame.uphase = false) :
    frameOk s := by
  refine ⟨fun hopen => absurd hfs hopen, ⟨?_, fun hopen => absurd hfs hopen, ?_, ?_, ?_⟩, ?_, ?_⟩ <;>
    simp [coding, hfs, huphase]

/-- A unit waits for its entropy coding only while units are coded (rule R52). -/
theorem frameOk.uphase_of_not_encoding {s : State} (h : frameOk s) (hfs : s.frame.fs ≠ .encoding) :
    s.frame.uphase = false := by
  obtain ⟨-, ⟨hphase, -⟩, -⟩ := h
  exact Bool.eq_false_iff.mpr fun huphase => hfs (hphase huphase).1

/-- While units are coded, a frame is open. -/
theorem coding.ne_awaiting {s : State} (h : coding s) : s.frame.fs ≠ .awaiting := by
  rcases h with h | h <;> simp [h]

/-! ### Stored register values (rules R25, R155, R287) -/

/-- A store changes the configuration only while no frame is open. -/
theorem frameOk_csrStore {s : State} (c : Csr) (v : Word) (hlock : csrClass c = .rwf → s.frame.fs = .awaiting)
    (h : frameOk s) : frameOk (csrStore s c v) := by
  obtain ⟨-, -, -, -, hcur, -, hmb, -⟩ := csrStore_frame s c v
  have hframe := csrStore_frameRegs s c v
  by_cases hfs : s.frame.fs = .awaiting
  · refine frameOk_of_awaiting ?_ ?_ <;> rw [hframe]
    · exact hfs
    · exact h.uphase_of_not_encoding (by simp [hfs])
  · exact h.congr hframe (csrStore_cfg s c v (mt hlock hfs)) hcur hmb

/-! ### The unit's position (rules R10, R51, R175, R233 step 4) -/

/-- A half of a packed pair is the integer packed, where that is not negative and has its sign bit free. -/
theorem toInt_ofInt_half {v : Int} (hlow : 0 ≤ v) (hhigh : v < 2 ^ 15) : (BitVec.ofInt 16 v).toInt = v :=
  BitVec.toInt_ofInt_eq_self (by decide) (by omega) hhigh

/-- A unit at the next position that lies inside the frame is not past the last one. -/
theorem mbcount_lt_of_nextUnitPos {s : State} (hwidth : legalDimension (lumaW s)) (hheight : legalDimension (lumaH s))
    (hcount : s.frame.mbcount.toNat ≤ unitsWide s * unitsHigh s) (hpos : s.cur.pos = nextUnitPos s)
    (hinside : hi16s s.cur.pos + 16 ≤ lumaH s) : s.frame.mbcount.toNat < unitsWide s * unitsHigh s := by
  obtain ⟨-, hmin, -⟩ := hwidth
  obtain ⟨-, -, hmax⟩ := hheight
  have hwide : 0 < unitsWide s := Nat.div_pos hmin (by decide)
  have hunits : unitsHigh s = lumaH s / 16 := rfl
  have hrow : s.frame.mbcount.toNat / unitsWide s ≤ unitsHigh s := Nat.div_le_of_le_mul hcount
  rw [hpos, nextUnitPos, hi16s_pack, toInt_ofInt_half (by omega) (by omega)] at hinside
  rw [Nat.mul_comm]
  exact (Nat.div_lt_iff_lt_mul hwide).mp (by omega)

/-- The unit counter has room for every unit of a frame (rule R51). -/
theorem unitsWide_mul_unitsHigh_lt {s : State} (hwidth : legalDimension (lumaW s))
    (hheight : legalDimension (lumaH s)) : unitsWide s * unitsHigh s < 2 ^ 16 := by
  obtain ⟨-, -, hmaxW⟩ := hwidth
  obtain ⟨-, -, hmaxH⟩ := hheight
  calc unitsWide s * unitsHigh s ≤ 255 * 255 := Nat.mul_le_mul (by unfold unitsWide; omega) (by unfold unitsHigh; omega)
    _ < 2 ^ 16 := by decide

/-! ### The datapath's commands -/

/-- `LDCUR` loads a unit that lies inside the frame, and none waits (rule R175). -/
theorem frameOk_ldcur {s : State} {w : Word} (hready : coding s ∧ s.frame.uphase = false)
    (hplaced : unitAligned s (unpack w) = true) (h : frameOk s) :
    frameOk { s with cur := loadUnit s (lo16s w).toNat (hi16s w).toNat } := by
  obtain ⟨hconfig, ⟨-, hcount, hwaiting, hcomplete, -⟩, hvectors⟩ := h
  have hplaced := (unitAligned_iff s (unpack w)).mp hplaced
  have ⟨hx, hy, _⟩ := hplaced
  have hpos : pack (lo16s w).toNat (hi16s w).toNat = w := pack_toNat_unpack hx hy
  refine ⟨hconfig, ⟨fun huphase => ?_, hcount, hwaiting, hcomplete, fun _ _ => ?_⟩, hvectors⟩
  · exact absurd hready.2 (by simpa using huphase)
  · show 0 ≤ lo16s (pack _ _) ∧ 0 ≤ hi16s (pack _ _) ∧ lo16s (pack _ _) % 16 = 0 ∧ hi16s (pack _ _) % 16 = 0 ∧
      lo16s (pack _ _) + 16 ≤ lumaW s ∧ hi16s (pack _ _) + 16 ≤ lumaH s
    rw [hpos]
    exact hplaced

/-- A legal candidate lies within the search radius (rules R190, R191). -/
theorem withinRadius_of_legalCandidate {s : State} {x y : Int} {mv : Word}
    (h : legalCandidate s x y (lo16s mv) (hi16s mv)) : withinRadius s mv := by
  obtain ⟨hx, hy, -⟩ := h
  exact ⟨hx, hy⟩

/-- `TQMB` codes the next unit, which lies inside the frame, with vectors that it checked (rule R233). -/
theorem frameOk_tqmbResult {s : State} {mode : CodingMode} (hpasses : tqmbPasses s mode) (h : frameOk s) :
    frameOk (tqmbResult s mode) := by
  obtain ⟨⟨hcoding, -, hvalid⟩, -, -, hnext, hforward, hbackward, -⟩ := hpasses
  obtain ⟨hconfig, ⟨-, hcount, -, -, hplaced⟩, hpredictors, -⟩ := h
  have hcoding : coding s := hcoding
  obtain ⟨hwidth, hheight, -⟩ := hconfig hcoding.ne_awaiting
  obtain ⟨-, -, -, -, -, hbottom⟩ := hplaced hcoding hvalid
  have hroom := mbcount_lt_of_nextUnitPos hwidth hheight (hcount hcoding.ne_awaiting) hnext hbottom
  rw [show tqmbResult s mode = _ from commitUnit_eq s mode ..]
  refine ⟨fun _ => hconfig hcoding.ne_awaiting, ⟨fun _ => ⟨rfl, hvalid⟩, fun _ => hroom.le, fun _ => hroom, nofun,
    fun _ => hplaced hcoding⟩, fun _ => hpredictors hcoding, fun _ => ⟨fun hmode => ?_, fun hmode => ?_⟩⟩
  · show withinRadius s (if modeUses mode .forward then s.me.mvf else s.mb.mvf)
    rw [if_pos ((modeUses_forward_iff mode).mpr hmode)]
    exact withinRadius_of_legalCandidate (hforward hmode)
  · show withinRadius s (if modeUses mode .backward then s.me.mvb else s.mb.mvb)
    rw [if_pos ((modeUses_backward_iff mode).mpr hmode)]
    exact withinRadius_of_legalCandidate (hbackward hmode)

/-- The vector 0 lies within every radius. -/
theorem withinRadius_zero (s : State) : withinRadius s 0 := by
  have hlow : lo16s 0 = 0 := by decide
  have hhigh : hi16s 0 = 0 := by decide
  rw [withinRadius, hlow, hhigh]
  exact ⟨Nat.zero_le _, Nat.zero_le _⟩

/-- The vectors of a unit are the predictors of the next (rule R263). -/
theorem withinRadius_nextPredictors {s : State} (h : vectorsOk s) (hcoding : coding s)
    (hwaiting : s.frame.uphase = true) :
    withinRadius s (nextPredictors s.mb).pmvf ∧ withinRadius s (nextPredictors s.mb).pmvb := by
  obtain ⟨hpredictors, hvectors⟩ := h
  obtain ⟨hpmvf, hpmvb⟩ := hpredictors hcoding
  obtain ⟨hmvf, hmvb⟩ := hvectors hwaiting
  rw [nextPredictors_pmvf, nextPredictors_pmvb]
  cases hmode : s.mb.mode with
  | intra => exact ⟨withinRadius_zero s, withinRadius_zero s⟩
  | forward => exact ⟨hmvf (.inl hmode), hpmvb⟩
  | backward => exact ⟨hpmvf, hmvb (.inl hmode)⟩
  | interpolated => exact ⟨hmvf (.inr hmode), hmvb (.inr hmode)⟩

/-- `ECMB` counts a unit that was still to come and closes it (rule R264). -/
theorem frameOk_unitClosed {s : State} (l : List Bool) (hwaiting : s.frame.uphase = true) (h : frameOk s) :
    frameOk (unitClosed s (s.appended l)) := by
  obtain ⟨hconfig, ⟨hphase, -, hroom, -, -⟩, hvectors⟩ := h
  obtain ⟨hfs, -⟩ := hphase hwaiting
  have hcoding : coding s := .inr hfs
  have hroom := hroom hwaiting
  obtain ⟨hwidth, hheight, -⟩ := hconfig hcoding.ne_awaiting
  have hcount : (s.frame.mbcount + 1).toNat = s.frame.mbcount.toNat + 1 :=
    BitVec.toNat_add_of_lt (Nat.lt_of_le_of_lt hroom (unitsWide_mul_unitsHigh_lt hwidth hheight))
  refine ⟨hconfig, ⟨nofun, fun _ => ?_, nofun, fun hcomplete => ?_, nofun⟩,
    fun _ => withinRadius_nextPredictors hvectors hcoding hwaiting, nofun⟩
  · exact hcount.trans_le hroom
  · exact absurd (hfs.symm.trans hcomplete) nofun

/-! ### Frame control -/

/-- The checks pass exactly where each of them does. -/
theorem requireChecks_eq_ok_iff (checks : List (Nat × Bool)) :
    requireChecks checks = .ok () ↔ ∀ c ∈ checks, c.2 = true := by
  induction checks with
  | nil => simp [requireChecks]
  | cons c checks ih =>
    obtain ⟨n, ok⟩ := c
    cases ok <;> simp [requireChecks, ih]

/-- The sink's string is no matter of the configuration. -/
theorem configChecks_appended (s : State) (l : List Bool) (ftype : FrameType) :
    configChecks (s.appended l) ftype = configChecks s ftype := rfl

theorem one_le_toNat {n : Nat} {v : BitVec n} (h : v ≠ 0) : 1 ≤ v.toNat :=
  Nat.one_le_iff_ne_zero.mpr fun hzero => h (BitVec.eq_of_toNat_eq hzero)

/-- `FRMBEG` opens a frame whose configuration it checked, with no unit loaded or counted and predictors 0 (rules R282,
R283). -/
theorem frameOk_beginFrame {s : State} {ftype : FrameType} (hchecks : requireChecks (configChecks s ftype) = .ok ()) :
    frameOk (beginFrame s ftype) := by
  rw [requireChecks_eq_ok_iff] at hchecks
  simp only [configChecks, List.forall_mem_cons, dimensionOk_iff, windowSize_iff, matrix_iff, forwardSlot_iff,
    backwardSlot_iff] at hchecks
  obtain ⟨hwidth, hheight, hradius, hscale, hwindow, hmatrix, hforward, hbackward, -⟩ := hchecks
  refine ⟨fun _ => ⟨hwidth, hheight, ?_, ?_, hwindow, fun p => ?_, fun htype => hforward ?_, fun htype => hbackward ?_⟩,
    ⟨nofun, fun _ => ?_, nofun, nofun, nofun⟩, fun _ => ⟨withinRadius_zero s, withinRadius_zero s⟩, nofun⟩
  · exact one_le_toNat (bne_iff_ne.mp hradius)
  · exact one_le_toNat (bne_iff_ne.mp hscale)
  · exact one_le_toNat (hmatrix p)
  · cases ftype with
    | intra => exact absurd rfl htype
    | predicted | bidirectional => exact nofun
  · exact congrArg frameTypeNumber htype
  · exact Nat.zero_le _

/-- `FRMEND` completes a frame all of whose units are counted (rule R285). -/
theorem frameOk_frameEnded {s : State} (l : List Bool) (hfs : s.frame.fs = .encoding ∧ s.frame.uphase = false)
    (hcount : s.frame.mbcount.toNat = unitsWide s * unitsHigh s) (h : frameOk s) :
    frameOk (frameEnded s (s.appended l)) := by
  obtain ⟨hencoding, huphase⟩ := hfs
  obtain ⟨hconfig, -, -⟩ := h
  have hclosed : ¬(frameEnded s (s.appended l)).frame.uphase = true := Bool.eq_false_iff.mp huphase
  have hcoding : ¬coding (frameEnded s (s.appended l)) := fun h => h.elim nofun nofun
  exact ⟨fun _ => hconfig (coding.ne_awaiting (.inr hencoding)),
    ⟨fun h => absurd h hclosed, fun _ => hcount.le, fun h => absurd h hclosed, fun _ => hcount,
      fun h => absurd h hcoding⟩, fun h => absurd h hcoding, fun h => absurd h hclosed⟩

/-! ### Every step -/

theorem Effect.keeps_frameOk {s u : State} {i : Instr} (heffect : Effect s i u) (h : frameOk s) : frameOk u := by
  cases heffect with
  | stw | putb | align | flush => exact h
  | wrcsr csr ra c _ hlock => exact frameOk_csrStore c _ hlock h
  | ldcur ra hready hplaced => exact frameOk_ldcur hready hplaced h
  | tqmb mode hpasses => exact frameOk_tqmbResult hpasses h
  | ecmb hwaiting => exact frameOk_unitClosed _ hwaiting h
  | frmbeg ftype _ hchecks => exact frameOk_beginFrame ((configChecks_appended ..).symm ▸ hchecks)
  | frmend hfs hcount => exact frameOk_frameEnded _ hfs hcount h
  | frmnext keep hfs => exact frameOk_of_awaiting rfl (h.uphase_of_not_encoding (by simp [hfs]))

/-- Settles O59: every command by its effect on the data; the host reaches the configuration only where there is no frame
to rely on it, and an aborted one relies on nothing. -/
theorem openFrameKept : Obligations.OpenFrameKept := by
  unfold Obligations.OpenFrameKept
  intro s t hs h
  refine step_keeps_of_data (P := frameOk) ?_ (fun _ _ _ => Effect.keeps_frameOk) (fun _ _ => frameOk_reset) ?_ ?_
    (fun _ c v hlock => frameOk_csrStore c v hlock) (fun _ _ _ _ => id) h hs
  · intro s t hsame hs
    rw [hsame]
    exact hs
  · intro s hs
    unfold State.ctrlRefClear
    split
    · next haccepted =>
      have hfs : s.frame.fs = .awaiting := by simp_all
      exact frameOk_of_awaiting hfs (hs.uphase_of_not_encoding (by simp [hfs]))
    · exact hs
  · intro s hs
    unfold State.ctrlFrameAbort
    split
    · exact frameOk_of_awaiting rfl rfl
    · exact hs

end Sys2Proof.Machine

/-! SUPPORT. Displaced blocks inside their planes: the addresses they read, and the chroma blocks of a luma block inside
(rules R172 to R174, R210). -/

namespace Sys2Proof.Machine

/-- Along one axis, the samples that a displaced block reads, the half-sample neighbour included, end inside a plane
that holds the block (rules R172, R174). -/
theorem axis_inside {p2 : Int} {n size : Nat} (hlow : 0 ≤ p2) (hhigh : p2 / 2 + n + p2 % 2 ≤ size) :
    (p2 / 2).toNat + (n + (p2 % 2).toNat) ≤ size := by omega

/-- A block whose rows and columns are those of a plane reads the plane's addresses alone (rule R10). -/
theorem blockAddress_inside {base w h x y cols rows a : Nat} (hcols : x + cols ≤ w) (hrows : y + rows ≤ h)
    (ha : blockAddress base w x y cols rows a) : base ≤ a ∧ a < base + w * h := by
  obtain ⟨r, c, hr, hc, rfl⟩ := ha
  refine ⟨by omega, ?_⟩
  calc base + (y + r) * w + x + c < base + ((y + r) * w + w) := by omega
    _ = base + w * (y + r + 1) := by ring
    _ ≤ base + w * h := Nat.add_le_add_left (Nat.mul_le_mul_left w (by omega)) base

/-- Along one axis, a displaced luma block inside an even plane has its chroma block inside the chroma plane, which is
half as long: halving the vector toward zero brings the corner no nearer to either edge (rule R210). -/
theorem chroma_axis_inside {x mv : Int} {size : Nat} (hx : x % 16 = 0) (heven : size % 2 = 0) (hlow : 0 ≤ 2 * x + mv)
    (hhigh : (2 * x + mv) / 2 + (16 : Nat) + (2 * x + mv) % 2 ≤ size) :
    0 ≤ x + tz2 mv ∧ (x + tz2 mv) / 2 + (8 : Nat) + (x + tz2 mv) % 2 ≤ (size / 2 : Nat) := by
  unfold tz2
  split <;> omega

/-- Settles O23: the footprint axis by axis, the spans by their own lemma, and each axis of the chroma block. -/
theorem footprintsInsidePlanes : Obligations.FootprintsInsidePlanes := by
  unfold Obligations.FootprintsInsidePlanes
  refine ⟨fun base w h px2 py2 n hinside =>
      ⟨fun a ha => ?_, fun a => (mem_footprint_iff ⟨base, w, h⟩ ⟨px2, py2⟩ n a).symm⟩,
    fun x y mvx mvy w h hx hy hw hh hinside => ?_⟩
  · obtain ⟨hleft, htop, hright, hbottom⟩ := hinside
    exact blockAddress_inside (axis_inside hleft hright) (axis_inside htop hbottom) ha
  · obtain ⟨hleft, htop, hright, hbottom⟩ := hinside
    obtain ⟨hleft', hright'⟩ := chroma_axis_inside hx hw hleft hright
    obtain ⟨htop', hbottom'⟩ := chroma_axis_inside hy hh htop hbottom
    exact ⟨hleft', htop', hright', hbottom'⟩

end Sys2Proof.Machine

/-! SUPPORT. A search is never worse than the zero vector (rules R190 to R194). -/

namespace Sys2Proof.Machine

/-- A candidate that another is not before has no greater distortion (rule R192). -/
theorem dist_le_of_not_keyBefore {a b : Candidate} (h : ¬keyBefore a b) : b.dist ≤ a.dist :=
  Nat.le_of_not_lt fun hlt => h (.inl hlt)

/-- The zero vector without distortion has the least key of all, so what it is not before is that itself (rule R192). -/
theorem eq_zero_of_not_keyBefore {b : Candidate} (h : ¬keyBefore ⟨⟨0, 0⟩, 0⟩ b) : b = ⟨⟨0, 0⟩, 0⟩ := by
  obtain ⟨⟨x, y⟩, dist⟩ := b
  simp only [keyBefore, Int.natAbs_zero] at h
  simp only [Candidate.mk.injEq, Vec.mk.injEq]
  omega

/-- The order is total, so not being before is transitive (rule R192). -/
theorem not_keyBefore_trans {a b c : Candidate} (h : ¬keyBefore a b) (h' : ¬keyBefore b c) : ¬keyBefore a c := by
  intro hbefore
  rcases keyBefore_total b a with hba | rfl | hab
  · exact h' (keyBefore_trans hba hbefore)
  · exact h' hbefore
  · exact h hab

/-- The zero vector, from which stage 1 starts, is not before what the search finds, since stage 2 starts from the
winner of stage 1 (rule R193). -/
theorem zero_not_keyBefore_search (s : State) (p : Plane) (o : Vec) (met : MetricKind) :
    ¬keyBefore (measured s p o met ⟨0, 0⟩) (search s p o met) := by
  obtain ⟨-, hfull, -⟩ := leastKey_spec (measured s p o met ⟨0, 0⟩)
    (measuredCandidates s p o met (grid ⟨0, 0⟩ 2 (s.cfg.sradius.toNat / 2)))
  obtain ⟨-, hhalf, -⟩ := leastKey_spec (searchFull s p o met)
    (measuredCandidates s p o met (grid (searchFull s p o met).mv 1 1))
  exact not_keyBefore_trans hfull hhalf

/-- The zero vector with the distortion of the block at the origin (rule R193). -/
theorem measured_zero (s : State) (p : Plane) (o : Vec) (met : MetricKind) :
    measured s p o met ⟨0, 0⟩ = ⟨⟨0, 0⟩, blockMetric met (curLuma s) (predBlock s.mem p ⟨2 * o.x, 2 * o.y⟩ 16)⟩ := by
  simp only [measured, distortion, displaced, Int.add_zero]

/-- Mode selection takes the least distortion (rule R194). -/
theorem selectMode_dist (df db di : Nat) : (selectMode df db di).1 = min (min df db) di := by
  unfold selectMode
  split
  · show df = _
    omega
  · split
    · show db = _
      omega
    · show di = _
      omega

/-- Settles O27: the zero vector is not before what the search finds, which is a legal candidate by `searchIsLeast`. -/
theorem searchNeverWorse : Obligations.SearchNeverWorse := by
  unfold Obligations.SearchNeverWorse
  intro s p o met hx hy hw hh b zero
  obtain ⟨-, -, ⟨ex, ey, -, -, -, -, hb, hlegal⟩, -⟩ := searchIsLeast s p o met hx hy hw hh
  obtain ⟨hradiusX, hradiusY, -⟩ := hlegal
  have hb : b = _ := hb
  have hleast := zero_not_keyBefore_search s p o met
  rw [measured_zero] at hleast
  refine ⟨dist_le_of_not_keyBefore hleast, ?_, ?_, fun hsame => ?_, selectMode_dist⟩
  · rw [hb]; exact hradiusX
  · rw [hb]; exact hradiusY
  · rw [show predBlock s.mem p ⟨2 * o.x, 2 * o.y⟩ 16 = curLuma s from hsame, blockMetric_self] at hleast
    exact eq_zero_of_not_keyBefore hleast

end Sys2Proof.Machine

/-! SUPPORT. The decoder of rule R266 on what the encoder writes: a symbol, a pair, a block (rules R256 to R258,
R266). -/

namespace Sys2Proof.Machine

/-! ### Code words read back (rules R257, R266) -/

theorem readSymbol_eobCode (b : List Bool) : readSymbol (eobCode ++ b) = some (.eob, b) := rfl

theorem readSymbol_escCode (b : List Bool) : readSymbol (escCode ++ b) = some (.esc, b) := rfl

/-- No code word begins another, so a row's code is read as that row, whatever follows it. -/
theorem readSymbol_code (b : List Bool) :
    ∀ r ∈ pairTable, readSymbol (r.code ++ b) = some (.pair r.run r.magnitude, b) := by
  simp only [pairTable, List.forall_mem_cons]
  exact ⟨rfl, rfl, rfl, rfl, rfl, rfl, rfl, rfl, rfl, rfl, rfl, rfl, rfl, rfl, rfl, nofun⟩

/-! ### Pairs read back (rule R258) -/

/-- The nine bits of an escaped level hold it (rules R8, R223, R258). -/
theorem toInt_escapeLevel {v : Int} (hv : v.natAbs ≤ 255) :
    (BitVec.ofNat 9 (bitsValue (binInt 9 v))).toInt = v := by
  have hbits : BitVec.ofNat 9 (bitsValue (binInt 9 v)) = BitVec.ofInt 9 v := by
    apply BitVec.eq_of_toNat_eq
    rw [binInt, bitsValue_bin, BitVec.toNat_ofNat, BitVec.toNat_ofInt]
    omega
  rw [hbits]
  exact BitVec.toInt_ofInt_eq_self (by decide) (by omega) (by omega)

/-- One turn of the decoding loop reads one pair: the level goes behind the run of zeros (rule R266). -/
theorem decodeBlockFrom_pairBits {run : Nat} {v : Int} (hrun : run < 64) (hv : v.natAbs ≤ 255) (fuel : Nat)
    (q : List Int) (n : Nat) (b : List Bool) :
    decodeBlockFrom (fuel + 1) q n (pairBits run v ++ b) =
      decodeBlockFrom fuel (q.set (n + run) v) (n + run + 1) b := by
  by_cases hrow : ∃ r ∈ pairTable, r.run = run ∧ r.magnitude = v.natAbs
  · obtain ⟨r, hr, rfl, hmagnitude⟩ := hrow
    have hlevel : (if decide (v < 0) = true then -(r.magnitude : Int) else r.magnitude) = v := by
      simp only [hmagnitude, decide_eq_true_eq]
      split <;> omega
    rw [pairBits_of_mem hr hmagnitude, List.append_assoc, decodeBlockFrom, readSymbol_code _ r hr]
    simp only [List.cons_append, List.nil_append, hlevel]
  · have hnone : ∀ r ∈ pairTable, ¬(r.run = run ∧ r.magnitude = v.natAbs) := fun r hr hpair => hrow ⟨r, hr, hpair⟩
    have hlength : (binInt 9 v).length = 9 := length_bin 9 _
    have hdrop : (bin 6 run ++ (binInt 9 v ++ b)).drop 6 = binInt 9 v ++ b := List.drop_left' (length_bin 6 run)
    have hrest : (bin 6 run ++ (binInt 9 v ++ b)).drop 15 = b := by
      rw [← List.drop_drop (i := 9) (j := 6), hdrop, List.drop_left' hlength]
    rw [pairBits_of_not_mem hnone, List.append_assoc, List.append_assoc, decodeBlockFrom, readSymbol_escCode]
    simp only [List.take_left' (length_bin 6 run), hdrop, List.take_left' hlength, hrest, toInt_escapeLevel hv,
      bitsValue_bin, Nat.mod_eq_of_lt (show run < 2 ^ 6 from hrun)]

/-! ### A block read back (rules R256, R266) -/

/-- A level put behind a run of zeros after the levels read so far. -/
theorem set_after_zeros (done : List Int) (run k : Nat) (v : Int) :
    (done ++ List.replicate (run + (k + 1)) 0).set (done.length + run) v =
      done ++ List.replicate run 0 ++ [v] ++ List.replicate k 0 := by
  rw [List.replicate_add, List.replicate_succ, ← List.append_assoc, List.set_append_right _ _ (by simp)]
  simp

/-- The decoder inside a block: `done` are the levels up to the last pair read, `run` counts the zeros since, `l` are
the levels still to come. It needs at most one turn for each of these and one for the end of the block. -/
theorem decodeBlockFrom_blockBitsFrom (rest : List Bool) (l done : List Int) (run fuel : Nat)
    (hlength : done.length + run + l.length ≤ 64) (hfuel : l.length < fuel) (hl : ∀ v ∈ l, v.natAbs ≤ 255) :
    decodeBlockFrom fuel (done ++ List.replicate (run + l.length) 0) done.length (blockBitsFrom run l ++ rest) =
      some (done ++ List.replicate run 0 ++ l, rest) := by
  induction l generalizing done run fuel with
  | nil =>
    obtain ⟨fuel, rfl⟩ := Nat.exists_eq_succ_of_ne_zero (Nat.ne_of_gt hfuel)
    rw [blockBitsFrom, decodeBlockFrom, readSymbol_eobCode]
    simp
  | cons v l ih =>
    obtain ⟨hv, hl⟩ := List.forall_mem_cons.mp hl
    rw [List.length_cons] at hlength hfuel ⊢
    by_cases hzero : v = 0
    · have hrun : run + (l.length + 1) = run + 1 + l.length := by omega
      rw [blockBitsFrom, if_pos hzero, hrun, ih done (run + 1) fuel (by omega) (by omega) hl, hzero]
      simp [List.replicate_succ']
    · obtain ⟨fuel, rfl⟩ := Nat.exists_eq_succ_of_ne_zero (Nat.ne_zero_of_lt hfuel)
      have hdone : (done ++ List.replicate run 0 ++ [v]).length = done.length + run + 1 := by simp [Nat.add_assoc]
      have hnext := ih (done ++ List.replicate run 0 ++ [v]) 0 fuel (by omega) (by omega) hl
      rw [hdone, Nat.zero_add] at hnext
      rw [blockBitsFrom, if_neg hzero, List.append_assoc, decodeBlockFrom_pairBits (by omega) hv, set_after_zeros,
        hnext]
      simp

/-- Settles O46: the decoder reads a block pair by pair, and stops at the marker. -/
theorem blockDecodes : Obligations.BlockDecodes := by
  unfold Obligations.BlockDecodes
  intro q rest hq hlevels
  have hblock := decodeBlockFrom_blockBitsFrom rest q [] 0 65 (by simp [hq]) (by omega) hlevels
  rw [hq] at hblock
  exact hblock

end Sys2Proof.Machine

/-! SUPPORT. The length of a unit's record: a level costs an escape at most, and a vector differential is bounded by the
search radius (rules R256 to R264). -/

namespace Sys2Proof.Machine

/-! ### Blocks (rules R256 to R258) -/

/-- A pair is an escape of 21 bits, or a shorter code word and its sign. -/
theorem pairBits_length_le (run : Nat) (v : Int) : (pairBits run v).length ≤ 21 := by
  have htable : ∀ r ∈ pairTable, r.code.length ≤ 7 := by decide
  unfold pairBits
  split
  · next r hfind =>
    have hcode := htable r (List.mem_of_find?_eq_some hfind)
    rw [List.length_append, List.length_singleton]
    omega
  · rw [List.length_append, List.length_append, length_bin, binInt, length_bin]
    decide

/-- Each level is part of one pair at most, and the end of the block takes 2 bits. -/
theorem blockBitsFrom_length_le (run : Nat) (l : List Int) : (blockBitsFrom run l).length ≤ 21 * l.length + 2 := by
  induction l generalizing run with
  | nil => exact le_rfl
  | cons v l ih =>
    rw [blockBitsFrom, List.length_cons]
    split
    · have hrest := ih (run + 1)
      omega
    · have hpair := pairBits_length_le run v
      have hrest := ih 0
      rw [List.length_append]
      omega

/-- The six blocks of a unit. -/
theorem levelBits_length_le (qc : Vector (Vector Int 64) 6) : (levelBits qc).length ≤ 6 * (21 * 64 + 2) := by
  have hblocks := List.sum_le_card_nsmul (qc.toList.map fun q => (blockBits q.toList).length) (21 * 64 + 2)
    (List.forall_mem_map.mpr fun q _ => by
      have hblock := blockBitsFrom_length_le 0 q.toList
      rwa [Vector.length_toList] at hblock)
  rw [List.length_map, Vector.length_toList] at hblocks
  rw [levelBits, List.length_flatMap]
  exact hblocks

/-! ### The fields before the blocks (rules R260 to R263) -/

theorem modeTag_length_le (mode : CodingMode) : (modeTag mode).length ≤ 3 := by
  cases mode <;> decide

theorem scaleDelta_length_le (mbq prevq : Nat) : (scaleDelta mbq prevq).length ≤ 7 := by
  unfold scaleDelta
  split
  · decide
  · rw [List.length_cons, binInt, length_bin]

/-- The difference of two components within the largest radius takes 23 bits at most. -/
theorem svlc_length_le {v : Int} (hv : v.natAbs ≤ 2046) : (svlc v).length ≤ 23 := by
  have hindex : svlcIndex v + 1 < 2 ^ 12 := by
    unfold svlcIndex
    split <;> omega
  have hlog : Nat.log2 (svlcIndex v + 1) < 12 := (Nat.log2_lt (Nat.succ_ne_zero _)).mpr hindex
  rw [svlc, List.length_append, List.length_replicate, length_bin]
  omega

/-- The two codes of a differential of vectors within the search radius. -/
theorem vectorDelta_length_le {s : State} {mv pred : Word} (hmv : withinRadius s mv) (hpred : withinRadius s pred) :
    (vectorDelta mv pred).length ≤ 46 := by
  obtain ⟨hmvX, hmvY⟩ := hmv
  obtain ⟨hpredX, hpredY⟩ := hpred
  have hradius : s.cfg.sradius.toNat < 2 ^ 10 := s.cfg.sradius.isLt
  have hx : (svlc (lo16s mv - lo16s pred)).length ≤ 23 := svlc_length_le (by omega)
  have hy : (svlc (hi16s mv - hi16s pred)).length ≤ 23 := svlc_length_le (by omega)
  show (svlc (lo16s mv - lo16s pred) ++ svlc (hi16s mv - hi16s pred)).length ≤ 46
  rw [List.length_append]
  omega

/-- A unit has two differentials at most. -/
theorem vectorDeltas_length_le {s : State} (h : vectorsOk s) (hcoding : coding s) (hwaiting : s.frame.uphase = true) :
    (vectorDeltas s.mb).length ≤ 92 := by
  obtain ⟨hpredictors, hvectors⟩ := h
  obtain ⟨hpmvf, hpmvb⟩ := hpredictors hcoding
  obtain ⟨hmvf, hmvb⟩ := hvectors hwaiting
  unfold vectorDeltas
  split
  · exact Nat.zero_le _
  · next hmode => exact (vectorDelta_length_le (hmvf (.inl hmode)) hpmvf).trans (by decide)
  · next hmode => exact (vectorDelta_length_le (hmvb (.inl hmode)) hpmvb).trans (by decide)
  · next hmode =>
    rw [List.length_append]
    exact Nat.add_le_add (vectorDelta_length_le (hmvf (.inr hmode)) hpmvf)
      (vectorDelta_length_le (hmvb (.inr hmode)) hpmvb)

/-- Settles O48: the sum of the bounds of the record's fields. -/
theorem recordBound : Obligations.RecordBound := by
  unfold Obligations.RecordBound
  intro s _ hvectors hcoding hwaiting
  calc (recordBits s).length
      = (modeTag s.mb.mode).length + (scaleDelta s.quant.mbq.toNat s.quant.prevq.toNat).length +
          (vectorDeltas s.mb).length + (levelBits s.qc).length := by simp only [recordBits, List.length_append]
    _ ≤ 3 + 7 + 92 + 6 * (21 * 64 + 2) := by
        gcongr
        · exact modeTag_length_le _
        · exact scaleDelta_length_le _ _
        · exact vectorDeltas_length_le hvectors hcoding hwaiting
        · exact levelBits_length_le _
    _ = 8178 := by norm_num

end Sys2Proof.Machine

/-! SUPPORT. DC prediction: what the predictor holds after a block, what it makes of the next block with the same DC
coefficient, along a pass and from one unit to a later one (rules R220, R225, R227, R228). -/

namespace Sys2Proof.Machine

/-! ### One block (rule R227) -/

/-- The predictor register after a block that was not clamped and has the DC coefficient `c`: its DC level times the
step (rules R220, R227). -/
def dcPredictorOf (qm : List Nat) (q : Nat) (c : Int) : Word :=
  BitVec.ofInt 32 (rdiv (16 * c) (qm.getD 0 0 * q) * (qm.getD 0 0 * q : Nat))

/-- Without a clamp the DC level taken off is put back, so the predictor afterwards depends on the block alone. -/
theorem quantBlock_pred_unclamped {qm : List Nat} {q : Nat} {f : List Int} (pred : Word) (hf : 0 < f.length)
    (hqm : 0 < qm.length) : (quantBlock true qm q false f pred).pred = dcPredictorOf qm q (f.getD 0 0) := by
  rw [quantBlock_pred, if_pos rfl, quantBlock_effective_getD true false q pred hf hqm, quantBlock_coded_getD,
    rawLevels_getD true q pred hf hqm, dcPredictorOf]
  simp

/-- Division by 0 gives 0 (log 11). -/
@[simp] theorem rdiv_zero_right (a : Int) : rdiv a 0 = 0 := by simp [rdiv]

/-- The register holds the predictor as it is: a level times its step is within half a step of a coefficient (rules R9,
R219). -/
theorem dcLevel_dcPredictorOf {qm : List Nat} {q : Nat} {c : Int} (hstep : qm.getD 0 0 * q ≤ 255 * 31)
    (hc : c.natAbs ≤ 2040) : dcLevel true qm q (dcPredictorOf qm q c) = rdiv (16 * c) (qm.getD 0 0 * q) := by
  rw [dcLevel_eq, if_pos rfl, dcPredictorOf]
  generalize qm.getD 0 0 * q = step at hstep
  rcases Nat.eq_zero_or_pos step with rfl | hpos
  · simp
  · have herror := rdiv_error (16 * c) hpos
    rw [BitVec.toInt_ofInt_eq_self (by decide) (by omega) (by omega), rdiv_mul_self _ hpos]

/-- The next block with the same DC coefficient has the delta 0, clamped or not. -/
theorem quantBlock_coded_dc_zero {qm : List Nat} {q : Nat} {f : List Int} (clampIt : Bool) (hf : 0 < f.length)
    (hqm : 0 < qm.length) (hstep : qm.getD 0 0 * q ≤ 255 * 31) (hc : (f.getD 0 0).natAbs ≤ 2040) :
    (quantBlock true qm q clampIt f (dcPredictorOf qm q (f.getD 0 0))).coded.getD 0 0 = 0 := by
  have hraw : (rawLevels true qm q f (dcPredictorOf qm q (f.getD 0 0))).getD 0 0 = 0 := by
    rw [rawLevels_getD true q _ hf hqm, if_pos rfl, dcLevel_dcPredictorOf hstep hc, Int.sub_self]
  rw [quantBlock_coded_getD, hraw]
  split <;> rfl

/-! ### Along a pass (rule R225) -/

section Pass

variable {intra clampIt : Bool} {qm : List Nat} {q : Nat}

/-- Blocks of other plane types leave a predictor alone. -/
theorem quantPass_preds_get {blocks : List (Component × List Int)} {c : Component} (h : ∀ b ∈ blocks, b.1 ≠ c)
    (d : DcPredictors) : (quantPass intra qm q clampIt blocks d).preds.get c = d.get c := by
  induction blocks generalizing d with
  | nil => rfl
  | cons b blocks ih =>
    obtain ⟨hb, hblocks⟩ := List.forall_mem_cons.mp h
    exact (ih hblocks _).trans (by rw [DcPredictors.get_set, if_neg (Ne.symm hb)])

variable (pre post : List (Component × List Int)) {c : Component} {f : List Int} (d : DcPredictors)

/-- A block is coded from the predictor of its plane type after the blocks before it. -/
theorem quantPass_coded_at :
    (quantPass intra qm q clampIt (pre ++ (c, f) :: post) d).coded.getD pre.length [] =
      (quantBlock intra qm q clampIt f ((quantPass intra qm q clampIt pre d).preds.get c)).coded := by
  have hplace : (pre ++ (c, f) :: post)[pre.length]? = some (c, f) := by simp
  obtain ⟨hcoded, -⟩ := quantPass_at intra clampIt qm q d hplace
  rw [predsBefore, List.take_left] at hcoded
  rw [List.getD_eq_getElem?_getD, hcoded, Option.getD_some]

/-- The last block of a plane type leaves its predictor behind. -/
theorem quantPass_preds_last {post : List (Component × List Int)} (h : ∀ b ∈ post, b.1 ≠ c) (hf : 0 < f.length)
    (hqm : 0 < qm.length) :
    (quantPass true qm q false (pre ++ (c, f) :: post) d).preds.get c = dcPredictorOf qm q (f.getD 0 0) := by
  rw [quantPass_append]
  exact (quantPass_preds_get h _).trans (by rw [DcPredictors.get_set, if_pos rfl, quantBlock_pred_unclamped _ hf hqm])

/-- The second of two consecutive blocks with one plane type and DC coefficient has the delta 0. -/
theorem quantPass_coded_consecutive {g : List Int} (hqm : 0 < qm.length) (hf : 0 < f.length) (hg : 0 < g.length)
    (hstep : qm.getD 0 0 * q ≤ 255 * 31) (hsame : f.getD 0 0 = g.getD 0 0) (hc : (f.getD 0 0).natAbs ≤ 2040) :
    ((quantPass true qm q false (pre ++ (c, f) :: (c, g) :: post) d).coded.getD (pre.length + 1) []).getD 0 1 = 0 := by
  have hsecond := quantPass_coded_at (intra := true) (clampIt := false) (qm := qm) (q := q) (pre ++ [(c, f)]) post
    (c := c) (f := g) d
  rw [quantPass_preds_last pre d (by simp) hf hqm, hsame, List.length_append, List.append_assoc] at hsecond
  have hlength : (quantBlock true qm q false g (dcPredictorOf qm q (g.getD 0 0))).coded.length =
      min g.length qm.length := quantBlock_coded_length ..
  refine (congrArg (fun l => l.getD 0 1) hsecond).trans ?_
  rw [List.getD_eq_getElem _ _ (by omega), ← List.getD_eq_getElem _ 0]
  exact quantBlock_coded_dc_zero false hg hqm hstep (hsame ▸ hc)

/-- The first block of a plane type has the delta 0 where the pass began with the predictor of its DC coefficient. -/
theorem quantPass_coded_first {pre : List (Component × List Int)} (h : ∀ b ∈ pre, b.1 ≠ c) (hf : 0 < f.length)
    (hqm : 0 < qm.length) (hstep : qm.getD 0 0 * q ≤ 255 * 31) (hc : (f.getD 0 0).natAbs ≤ 2040)
    (hd : d.get c = dcPredictorOf qm q (f.getD 0 0)) :
    ((quantPass true qm q clampIt (pre ++ (c, f) :: post) d).coded.getD pre.length []).getD 0 0 = 0 := by
  rw [quantPass_coded_at, quantPass_preds_get h, hd]
  exact quantBlock_coded_dc_zero clampIt hf hqm hstep hc

end Pass

/-! ### From one unit to a later one (rules R228, R233) -/

/-- Coefficient block `k` of the loaded unit, coded Intra (rule R228). -/
def intraBlock (s : State) (k : Nat) : List Int :=
  ((unitCoefficients s (predictUnit s .intra (unpack s.cur.pos))).getD k (.y, [])).2

theorem intraDc_eq (s : State) (k : Nat) : intraDc s k = (intraBlock s k).getD 0 0 := rfl

/-- The six coefficient blocks with their plane types (rules R12, R213). -/
theorem unitCoefficients_intra (s : State) : unitCoefficients s (predictUnit s .intra (unpack s.cur.pos)) =
    [(.y, intraBlock s 0), (.y, intraBlock s 1), (.y, intraBlock s 2), (.y, intraBlock s 3), (.cb, intraBlock s 4),
      (.cr, intraBlock s 5)] := rfl

theorem intraBlock_length (s : State) {k : Nat} (hk : k < 6) : (intraBlock s k).length = 64 := by
  have hk : k < (unitCoefficients s (predictUnit s .intra (unpack s.cur.pos))).length := by
    rwa [unitCoefficients_length]
  rw [intraBlock, List.getD_eq_getElem _ _ hk]
  exact unitCoefficients_block_length _ _ _ (List.getElem_mem hk)

/-- An Intra unit is coded from its samples themselves, so the transform's bound is the one of samples (rule R219). -/
theorem intraDc_natAbs_le (s : State) (k : Nat) : (intraDc s k).natAbs ≤ 2040 := by
  have hsample : ∀ (b : Byte) (n j : Nat), ((b.toNat : Int) - ((List.replicate n 0).getD j 0 : Nat)).natAbs ≤ 255 := by
    intro b n j
    have hb : b.toNat < 2 ^ 8 := b.isLt
    have hzero : (List.replicate n 0).getD j 0 = 0 :=
      getD_of_forall (p := (· = 0)) rfl (fun _ => List.eq_of_mem_replicate) j
    rw [hzero]
    omega
  have hblocks : ∀ b ∈ unitCoefficients s (predictUnit s .intra (unpack s.cur.pos)), ∀ v ∈ b.2, v.natAbs ≤ 2040 := by
    obtain ⟨hy, hcb, hcr⟩ := predictUnit_lengths s .intra (unpack s.cur.pos)
    rw [unitCoefficients_eq s _ hy hcb hcr]
    simp only [List.map_cons, List.map_nil, List.forall_mem_cons]
    refine ⟨?_, ?_, ?_, ?_, ?_, ?_, nofun⟩ <;>
      exact forwardTransform_natAbs_le _ (forall_mem_rasterBlock fun i j => hsample _ _ _)
  exact getD_of_forall (p := fun v : Int => v.natAbs ≤ 2040) (by decide)
    (getD_of_forall (p := fun b : Component × List Int => ∀ v ∈ b.2, v.natAbs ≤ 2040) (by simp) hblocks k) 0

/-- The step of the DC coefficient (rules R45, R54). -/
theorem dcStep_le (s : State) (q : BitVec 5) : (quantMatrix s).getD 0 0 * q.toNat ≤ 255 * 31 := by
  rw [quantMatrix, getD_map_toNat_toList]
  exact Nat.mul_le_mul (Nat.le_of_lt_succ (BitVec.isLt _)) (Nat.le_of_lt_succ q.isLt)

/-- The pass that an Intra unit is coded with, at the scale and with the clamp that `TQMB` reports (rules R226,
R233). -/
def intraPass (s t : State) : PassResult :=
  quantPass true (quantMatrix s) t.quant.mbq.toNat t.flags.exh
    (unitCoefficients s (predictUnit s .intra (unpack s.cur.pos))) (dcPredictors s)

/-- An Intra `TQMB` stores the levels of that pass and the predictors it ends with. -/
theorem tqmb_intra_stores {s t : State} (hpasses : tqmbPasses s .intra) (h : exec (.tqmb .intra) s = .next t) :
    (∀ k : Fin 6, t.qc[k][0] = ((intraPass s t).coded.getD k []).getD 0 0) ∧
      dcPredictors t = (intraPass s t).preds := by
  obtain ⟨-, hunit⟩ := transformUnit .intra s
  obtain ⟨u, hu, hqc, -, hscale, -, -, -, hpreds, -, -, -, -, -, -, -, hflags, -⟩ := hunit hpasses
  obtain rfl : u = t := Host.Outcome.next.inj (hu.symm.trans h)
  have hresult : (quantizeUnit s .intra (predictUnit s .intra (unpack s.cur.pos))).result = intraPass s u := by
    rw [quantizeUnit, escalate_result, intraPass, hscale, hflags]
    rfl
  refine ⟨fun k => ?_, ?_⟩
  · rw [← hresult]
    exact hqc k 0
  · rw [← hresult]
    exact hpreds

/-- After an Intra unit without a clamp, each predictor is that of the last block of its type. -/
theorem dcPredictors_after_intra {s t : State} (hpasses : tqmbPasses s .intra) (h : exec (.tqmb .intra) s = .next t)
    (hexh : t.flags.exh = false) :
    t.quant.dcpy = dcPredictorOf (quantMatrix s) t.quant.mbq.toNat (intraDc s 3) ∧
    t.quant.dcpcb = dcPredictorOf (quantMatrix s) t.quant.mbq.toNat (intraDc s 4) ∧
    t.quant.dcpcr = dcPredictorOf (quantMatrix s) t.quant.mbq.toNat (intraDc s 5) := by
  obtain ⟨-, hpreds⟩ := tqmb_intra_stores hpasses h
  rw [intraPass, hexh, unitCoefficients_intra] at hpreds
  have hlast : ∀ (k : Nat) (c : Component) (pre post : List (Component × List Int)), k < 6 → (∀ b ∈ post, b.1 ≠ c) →
      (quantPass true (quantMatrix s) t.quant.mbq.toNat false (pre ++ (c, intraBlock s k) :: post)
        (dcPredictors s)).preds.get c = dcPredictorOf (quantMatrix s) t.quant.mbq.toNat (intraDc s k) :=
    fun k c pre post hk hpost =>
      quantPass_preds_last pre _ hpost (by rw [intraBlock_length s hk]; decide) (by rw [quantMatrix_length]; decide)
  refine ⟨?_, ?_, ?_⟩
  · exact (congrArg (·.get .y) hpreds).trans
      (hlast 3 .y [(.y, _), (.y, _), (.y, _)] [(.cb, _), (.cr, _)] (by decide) (by simp))
  · exact (congrArg (·.get .cb) hpreds).trans
      (hlast 4 .cb [(.y, _), (.y, _), (.y, _), (.y, _)] [(.cr, _)] (by decide) (by simp))
  · exact (congrArg (·.get .cr) hpreds).trans
      (hlast 5 .cr [(.y, _), (.y, _), (.y, _), (.y, _), (.cb, _)] [] (by decide) nofun)

/-- An Intra unit whose first block of a type finds its own DC coefficient in the predictor codes it with the delta
0. -/
theorem qc_dc_zero_of_intra {s t : State} (hpasses : tqmbPasses s .intra) (h : exec (.tqmb .intra) s = .next t) :
    (s.quant.dcpy = dcPredictorOf (quantMatrix s) t.quant.mbq.toNat (intraDc s 0) → t.qc[0][0] = 0) ∧
    (s.quant.dcpcb = dcPredictorOf (quantMatrix s) t.quant.mbq.toNat (intraDc s 4) → t.qc[4][0] = 0) ∧
    (s.quant.dcpcr = dcPredictorOf (quantMatrix s) t.quant.mbq.toNat (intraDc s 5) → t.qc[5][0] = 0) := by
  obtain ⟨hqc, -⟩ := tqmb_intra_stores hpasses h
  have hfirst : ∀ (k : Nat) (c : Component) (pre post : List (Component × List Int)), k < 6 → (∀ b ∈ pre, b.1 ≠ c) →
      (dcPredictors s).get c = dcPredictorOf (quantMatrix s) t.quant.mbq.toNat (intraDc s k) →
      ((quantPass true (quantMatrix s) t.quant.mbq.toNat t.flags.exh (pre ++ (c, intraBlock s k) :: post)
        (dcPredictors s)).coded.getD pre.length []).getD 0 0 = 0 :=
    fun k c pre post hk hpre hd =>
      quantPass_coded_first post _ hpre (by rw [intraBlock_length s hk]; decide) (by rw [quantMatrix_length]; decide)
        (dcStep_le s _) (intraDc_natAbs_le s k) hd
  simp only [intraPass, unitCoefficients_intra] at hqc
  refine ⟨fun hd => ?_, fun hd => ?_, fun hd => ?_⟩
  · exact (hqc 0).trans (hfirst 0 .y [] _ (by decide) nofun hd)
  · exact (hqc 4).trans (hfirst 4 .cb [(.y, _), (.y, _), (.y, _), (.y, _)] _ (by decide) (by simp) hd)
  · exact (hqc 5).trans (hfirst 5 .cr [(.y, _), (.y, _), (.y, _), (.y, _), (.cb, _)] _ (by decide) (by simp) hd)

/-! ### Which commands change the predictors (rules R48, R227, R283) -/

/-- The numbers of the predictor registers (rule R26). -/
theorem csrOfNumber_dcPredictor {n : Nat} {c : Csr} (h : csrOfNumber n = some c)
    (hc : c = .dcpy ∨ c = .dcpcb ∨ c = .dcpcr) : n = 0x048 ∨ n = 0x049 ∨ n = 0x04A := by
  have hlow : ∀ n < 0x05C, csrOfNumber n = some .dcpy ∨ csrOfNumber n = some .dcpcb ∨ csrOfNumber n = some .dcpcr →
      n = 0x048 ∨ n = 0x049 ∨ n = 0x04A := by decide
  rcases Nat.lt_or_ge n 0x05C with hn | hn
  · refine hlow n hn ?_
    rw [h]
    simpa only [Option.some.injEq] using hc
  · rw [csrOfNumber_of_ge hn] at h
    split at h
    · cases h; rcases hc with hc | hc | hc <;> cases hc
    · split at h
      · cases h; rcases hc with hc | hc | hc <;> cases hc
      · cases h

/-- A store to another register leaves the predictors alone. -/
theorem csrStore_dcPredictors (s : State) {c : Csr} (v : Word) (hc : ¬(c = .dcpy ∨ c = .dcpcb ∨ c = .dcpcr)) :
    dcPredictors (csrStore s c v) = dcPredictors s := by
  cases c with
  | dcpy | dcpcb | dcpcr => simp at hc
  | _ => rfl

/-- A unit that is not Intra leaves the predictors alone (rule R227). -/
theorem tqmbResult_dcPredictors (s : State) {mode : CodingMode} (h : mode ≠ .intra) :
    dcPredictors (tqmbResult s mode) = dcPredictors s := by
  rw [show tqmbResult s mode = _ from commitUnit_eq s mode ..]
  cases mode with
  | intra => exact absurd rfl h
  | forward | backward | interpolated => rfl

/-- What a command that completes does to the predictors: nothing, but for the three kinds that write them. -/
theorem Effect.dcPredictors_eq {s u : State} {i : Instr} (heffect : Effect s i u) (htqmb : i ≠ .tqmb .intra)
    (hfrmbeg : ∀ ftype, i ≠ .frmbeg ftype)
    (hwrcsr : ∀ csr ra, i = .wrcsr csr ra → csr ≠ 0x048 ∧ csr ≠ 0x049 ∧ csr ≠ 0x04A) :
    dcPredictors u = dcPredictors s := by
  cases heffect with
  | stw | ldcur | ecmb | putb | align | flush | frmend | frmnext => rfl
  | wrcsr csr ra c hnumber =>
    obtain ⟨hy, hcb, hcr⟩ := hwrcsr csr ra rfl
    refine csrStore_dcPredictors s _ fun hc => ?_
    rcases csrOfNumber_dcPredictor hnumber hc with h | h | h
    · exact hy (BitVec.eq_of_toNat_eq h)
    · exact hcb (BitVec.eq_of_toNat_eq h)
    · exact hcr (BitVec.eq_of_toNat_eq h)
  | tqmb mode => exact tqmbResult_dcPredictors s fun hmode => htqmb (by rw [hmode])
  | frmbeg ftype => exact absurd rfl (hfrmbeg ftype)

/-- Settles O35: within a pass, from the predictor a unit leaves to the next that finds it, and command by command in
between. -/
theorem dcContinuity : Obligations.DcContinuity := by
  unfold Obligations.DcContinuity
  refine ⟨fun qm q c pre post f g d hqm _ hq hentries hf hg hsame hc => ?_,
    fun s₁ t₁ s₂ t₂ hpasses₁ h₁ hexh hpasses₂ h₂ hmatrix hscale => ?_,
    fun i s t h htqmb hfrmbeg hwrcsr => ?_⟩
  · have hentry : qm.getD 0 0 ≤ 255 :=
      getD_of_forall (p := fun m : Nat => m ≤ 255) (by decide) (fun m hm => (hentries m hm).2) 0
    exact quantPass_coded_consecutive pre post d (by omega) (by omega) (by omega) (Nat.mul_le_mul hentry hq) hsame hc
  · obtain ⟨hy₁, hcb₁, hcr₁⟩ := dcPredictors_after_intra hpasses₁ h₁ hexh
    obtain ⟨hy₂, hcb₂, hcr₂⟩ := qc_dc_zero_of_intra hpasses₂ h₂
    have hsame : quantMatrix s₂ = quantMatrix s₁ := by rw [quantMatrix, hmatrix, quantMatrix]
    rw [hsame, hscale] at hy₂ hcb₂ hcr₂
    exact ⟨fun hpred hdc => hy₂ (by rw [hpred, hdc, hy₁]), fun hpred hdc => hcb₂ (by rw [hpred, hdc, hcb₁]),
      fun hpred hdc => hcr₂ (by rw [hpred, hdc, hcr₁])⟩
  · have hpreds : dcPredictors t = dcPredictors s := by
      rcases exec_effect h with hsame | ⟨u, hu, rfl⟩
      · rw [hsame]
        rfl
      · exact hu.dcPredictors_eq htqmb hfrmbeg hwrcsr
    simpa [dcPredictors] using hpreds

end Sys2Proof.Machine
